-- ==== Sys2Proof/Word.lean ====
section
/-! DEFINITION. The two word types of the hardware: an 8-bit byte and a 16-bit word (00_scope.md R6, R8). -/

namespace Sys2Proof

/-- A byte: the data width of the hardware (00_scope.md R6), bits 7 down to 0 (R8). -/
abbrev Byte := BitVec 8

/-- A 16-bit word: an address, a register pair, SP or pc (00_scope.md R6, R8). -/
abbrev Word := BitVec 16

end Sys2Proof
end

