-- ==== Sys2Proof/Syntax.lean ====
section
/-! DEFINITION. The instructions as syntax: one constructor for each of the 105 rows of opcode_table.json, in the table's
order, and the operand kinds of 30_encoding.md R92 to R96. -/

namespace Sys2Proof

/-- The seven registers an 8-bit operand can name (10_state.md R21). Code 110 is M, which is no register, and has rows of
its own (30_encoding.md R92). -/
inductive Reg
  | b | c | d | e | h | l | a
deriving DecidableEq, Repr

/-- The pairs of LXI, INX, DCX, DAD (10_state.md R23). -/
inductive Pair
  | bc | de | hl | sp
deriving DecidableEq, Repr

/-- The pairs of PUSH rp and POP rp; code 11 is PSW and has rows of its own (10_state.md R23). -/
inductive StackPair
  | bc | de | hl
deriving DecidableEq, Repr

/-- The pairs of LDAX and STAX (10_state.md R23). -/
inductive IndexPair
  | bc | de
deriving DecidableEq, Repr

/-- The instructions. Each constructor names its row of opcode_table.json and the rule that gives its meaning. -/
inductive Instr
  /-- MOV r1,r2 (R121) -/
  | movRR (dst src : Reg)
  /-- MOV r,M (R122) -/
  | movRM (dst : Reg)
  /-- MOV M,r (R123) -/
  | movMR (src : Reg)
  /-- MVI r,d8 (R124) -/
  | mviR (dst : Reg) (d8 : Byte)
  /-- MVI M,d8 (R125) -/
  | mviM (d8 : Byte)
  /-- LXI rp,d16 (R126) -/
  | lxi (rp : Pair) (d16 : Word)
  /-- LDA a16 (R127) -/
  | lda (a16 : Word)
  /-- STA a16 (R128) -/
  | sta (a16 : Word)
  /-- LHLD a16 (R129) -/
  | lhld (a16 : Word)
  /-- SHLD a16 (R130) -/
  | shld (a16 : Word)
  /-- LDAX rp (R131) -/
  | ldax (rp : IndexPair)
  /-- STAX rp (R132) -/
  | stax (rp : IndexPair)
  /-- XCHG (R133) -/
  | xchg
  /-- ADD r (R141) -/
  | addR (src : Reg)
  /-- ADD M (R142) -/
  | addM
  /-- ADI d8 (R143) -/
  | adi (d8 : Byte)
  /-- ADC r (R144) -/
  | adcR (src : Reg)
  /-- ADC M (R145) -/
  | adcM
  /-- ACI d8 (R146) -/
  | aci (d8 : Byte)
  /-- SUB r (R147) -/
  | subR (src : Reg)
  /-- SUB M (R148) -/
  | subM
  /-- SUI d8 (R149) -/
  | sui (d8 : Byte)
  /-- SBB r (R150) -/
  | sbbR (src : Reg)
  /-- SBB M (R151) -/
  | sbbM
  /-- SBI d8 (R152) -/
  | sbi (d8 : Byte)
  /-- INR r (R153) -/
  | inrR (dst : Reg)
  /-- INR M (R154) -/
  | inrM
  /-- DCR r (R155) -/
  | dcrR (dst : Reg)
  /-- DCR M (R156) -/
  | dcrM
  /-- INX rp (R159) -/
  | inx (rp : Pair)
  /-- DCX rp (R160) -/
  | dcx (rp : Pair)
  /-- DAD rp (R161) -/
  | dad (rp : Pair)
  /-- DAA (R162) -/
  | daa
  /-- ANA r (R171) -/
  | anaR (src : Reg)
  /-- ANA M (R172) -/
  | anaM
  /-- ANI d8 (R173) -/
  | ani (d8 : Byte)
  /-- XRA r (R174) -/
  | xraR (src : Reg)
  /-- XRA M (R175) -/
  | xraM
  /-- XRI d8 (R176) -/
  | xri (d8 : Byte)
  /-- ORA r (R177) -/
  | oraR (src : Reg)
  /-- ORA M (R178) -/
  | oraM
  /-- ORI d8 (R179) -/
  | ori (d8 : Byte)
  /-- CMP r (R180) -/
  | cmpR (src : Reg)
  /-- CMP M (R181) -/
  | cmpM
  /-- CPI d8 (R182) -/
  | cpi (d8 : Byte)
  /-- RLC (R183) -/
  | rlc
  /-- RRC (R184) -/
  | rrc
  /-- RAL (R185) -/
  | ral
  /-- RAR (R186) -/
  | rar
  /-- CMA (R187) -/
  | cma
  /-- CMC (R188) -/
  | cmc
  /-- STC (R189) -/
  | stc
  /-- JMP a16 (R201) -/
  | jmp (a16 : Word)
  /-- JNZ a16 (R203) -/
  | jnz (a16 : Word)
  /-- JZ a16 (R204) -/
  | jz (a16 : Word)
  /-- JNC a16 (R205) -/
  | jnc (a16 : Word)
  /-- JC a16 (R206) -/
  | jc (a16 : Word)
  /-- JPO a16 (R207) -/
  | jpo (a16 : Word)
  /-- JPE a16 (R208) -/
  | jpe (a16 : Word)
  /-- JP a16 (R209) -/
  | jp (a16 : Word)
  /-- JM a16 (R210) -/
  | jm (a16 : Word)
  /-- CALL a16 (R211) -/
  | call (a16 : Word)
  /-- CNZ a16 (R213) -/
  | cnz (a16 : Word)
  /-- CZ a16 (R214) -/
  | cz (a16 : Word)
  /-- CNC a16 (R215) -/
  | cnc (a16 : Word)
  /-- CC a16 (R216) -/
  | cc (a16 : Word)
  /-- CPO a16 (R217) -/
  | cpo (a16 : Word)
  /-- CPE a16 (R218) -/
  | cpe (a16 : Word)
  /-- CP a16 (R219) -/
  | cp (a16 : Word)
  /-- CM a16 (R220) -/
  | cm (a16 : Word)
  /-- RET (R221) -/
  | ret
  /-- RNZ (R223) -/
  | rnz
  /-- RZ (R224) -/
  | rz
  /-- RNC (R225) -/
  | rnc
  /-- RC (R226) -/
  | rc
  /-- RPO (R227) -/
  | rpo
  /-- RPE (R228) -/
  | rpe
  /-- RP (R229) -/
  | rp
  /-- RM (R230) -/
  | rm
  /-- RST n, n from 0 to 7 (R231) -/
  | rst (n : Nat)
  /-- PCHL (R232) -/
  | pchl
  /-- PUSH rp (R240) -/
  | pushRp (rp : StackPair)
  /-- PUSH PSW (R241) -/
  | pushPsw
  /-- POP rp (R242) -/
  | popRp (rp : StackPair)
  /-- POP PSW (R243) -/
  | popPsw
  /-- XTHL (R244) -/
  | xthl
  /-- SPHL (R245) -/
  | sphl
  /-- IN port (R246) -/
  | inp (port : Byte)
  /-- OUT port (R247) -/
  | out (port : Byte)
  /-- EI (R248) -/
  | ei
  /-- DI (R249) -/
  | di
  /-- HLT (R250) -/
  | hlt
  /-- NOP (R251) -/
  | nop
  /-- RIM (R255) -/
  | rim
  /-- SIM (R256) -/
  | sim
  /-- ARHL (R271) -/
  | arhl
  /-- DSUB (R272) -/
  | dsub
  /-- JNUI a16 (R273) -/
  | jnui (a16 : Word)
  /-- JUI a16 (R274) -/
  | jui (a16 : Word)
  /-- LDHI d8 (R275) -/
  | ldhi (d8 : Byte)
  /-- LDSI d8 (R276) -/
  | ldsi (d8 : Byte)
  /-- LHLX (R277) -/
  | lhlx
  /-- RDEL (R278) -/
  | rdel
  /-- RSTV (R279) -/
  | rstv
  /-- SHLX (R280) -/
  | shlx
deriving DecidableEq, Repr

end Sys2Proof
end

