-- ==== Sys2Proof/WellFormed.lean ====
section
/-! DEFINITION. When an instruction is well formed: every operand has a value its encoding admits. The operand types admit
only encodable values (a register is never code 110, a stack pair never 11: 30_encoding.md R92, R93) but for the restart
number, which is a number. -/

namespace Sys2Proof

/-- Every operand of the instruction has a value the encoding admits: the restart number of RST n is 0 to 7
(30_encoding.md R95). -/
def Instr.wellFormed : Instr → Bool
  | .rst n => decide (n < 8)
  | _ => true

end Sys2Proof
end

