-- ==== Sys2Proof/Decode.lean ====
section
/-! DEFINITION. Bytes to instructions and back: byte order, register and condition codes, the decoder (30_encoding.md R97,
R98, R101) and, after it, the encoder (R91). The decoder is total: every first byte is an instruction (R100), so that it
rejects only for want of bytes. -/

namespace Sys2Proof

/-! ## Byte order (20_memory.md R63) -/

/-- The word with high-order byte `hi` and low-order byte `lo`, written `{hi, lo}` in 00_scope.md R8. -/
def ofBytes (hi lo : Byte) : Word := hi ++ lo

/-- Bits 15 to 8. -/
def hiByte (w : Word) : Byte := w.extractLsb' 8 8

/-- Bits 7 to 0. -/
def loByte (w : Word) : Byte := w.extractLsb' 0 8

/-! ## Codes of the operands -/

/-- The 3-bit code of a register (10_state.md R21). -/
def Reg.code : Reg → BitVec 3
  | .b => 0b000#3
  | .c => 0b001#3
  | .d => 0b010#3
  | .e => 0b011#3
  | .h => 0b100#3
  | .l => 0b101#3
  | .a => 0b111#3

/-- The register of a 3-bit code; `none` is code 110, the memory operand M (30_encoding.md R92). -/
def Reg.ofCode (code : BitVec 3) : Option Reg :=
  match code.toNat with
  | 0 => some .b
  | 1 => some .c
  | 2 => some .d
  | 3 => some .e
  | 4 => some .h
  | 5 => some .l
  | 6 => none
  | _ => some .a

/-- The 2-bit code of a pair (30_encoding.md R93). -/
def Pair.code : Pair → BitVec 2
  | .bc => 0b00#2
  | .de => 0b01#2
  | .hl => 0b10#2
  | .sp => 0b11#2

/-- The pair of a 2-bit code in LXI, INX, DCX, DAD (30_encoding.md R93). -/
def Pair.ofCode (code : BitVec 2) : Pair :=
  match code.toNat with
  | 0 => .bc
  | 1 => .de
  | 2 => .hl
  | _ => .sp

/-- The 2-bit code of a pair in PUSH and POP (30_encoding.md R93). -/
def StackPair.code : StackPair → BitVec 2
  | .bc => 0b00#2
  | .de => 0b01#2
  | .hl => 0b10#2

/-- The pair of a 2-bit code in PUSH and POP; `none` is code 11, PSW (30_encoding.md R93). -/
def StackPair.ofCode (code : BitVec 2) : Option StackPair :=
  match code.toNat with
  | 0 => some .bc
  | 1 => some .de
  | 2 => some .hl
  | _ => none

/-- The 1-bit code of a pair in LDAX and STAX (30_encoding.md R93). -/
def IndexPair.code : IndexPair → BitVec 1
  | .bc => 0b0#1
  | .de => 0b1#1

/-! ## The decoder -/

/-- First bytes `00yyyzzz` (30_encoding.md R97): immediates, 16-bit arithmetic, INR, DCR, MVI, rotates and specials, RIM,
SIM and five extended opcodes. -/
def decode00 (y z : BitVec 3) (d8 : Byte) (a16 : Word) : Instr :=
  let rp := Pair.ofCode (y.extractLsb' 1 2)
  match z.toNat, y.toNat with
  | 0, 0 => .nop
  | 0, 1 => .dsub
  | 0, 2 => .arhl
  | 0, 3 => .rdel
  | 0, 4 => .rim
  | 0, 5 => .ldhi d8
  | 0, 6 => .sim
  | 0, _ => .ldsi d8
  | 1, _ => if y.getLsbD 0 then .dad rp else .lxi rp a16
  | 2, 0 => .stax .bc
  | 2, 1 => .ldax .bc
  | 2, 2 => .stax .de
  | 2, 3 => .ldax .de
  | 2, 4 => .shld a16
  | 2, 5 => .lhld a16
  | 2, 6 => .sta a16
  | 2, _ => .lda a16
  | 3, _ => if y.getLsbD 0 then .dcx rp else .inx rp
  | 4, _ => match Reg.ofCode y with
            | some r => .inrR r
            | none => .inrM
  | 5, _ => match Reg.ofCode y with
            | some r => .dcrR r
            | none => .dcrM
  | 6, _ => match Reg.ofCode y with
            | some r => .mviR r d8
            | none => .mviM d8
  | _, 0 => .rlc
  | _, 1 => .rrc
  | _, 2 => .ral
  | _, 3 => .rar
  | _, 4 => .daa
  | _, 5 => .cma
  | _, 6 => .stc
  | _, _ => .cmc

/-- First bytes `01dddsss` (30_encoding.md R97): the MOV block, with HLT where both codes are 110. -/
def decode01 (ddd sss : BitVec 3) : Instr :=
  match Reg.ofCode ddd, Reg.ofCode sss with
  | some dst, some src => .movRR dst src
  | some dst, none => .movRM dst
  | none, some src => .movMR src
  | none, none => .hlt

/-- First bytes `10ooosss` (30_encoding.md R97): the eight accumulator operations on a register or M. -/
def decode10 (ooo sss : BitVec 3) : Instr :=
  match ooo.toNat, Reg.ofCode sss with
  | 0, some r => .addR r
  | 0, none => .addM
  | 1, some r => .adcR r
  | 1, none => .adcM
  | 2, some r => .subR r
  | 2, none => .subM
  | 3, some r => .sbbR r
  | 3, none => .sbbM
  | 4, some r => .anaR r
  | 4, none => .anaM
  | 5, some r => .xraR r
  | 5, none => .xraM
  | 6, some r => .oraR r
  | 6, none => .oraM
  | _, some r => .cmpR r
  | _, none => .cmpM

/-- First bytes `11yyyzzz` (30_encoding.md R97): returns, pops, jumps, calls, pushes, immediate arithmetic, RST, I/O and
interrupt control, and five extended opcodes. -/
def decode11 (y z : BitVec 3) (d8 : Byte) (a16 : Word) : Instr :=
  match z.toNat, y.toNat with
  | 0, 0 => .rnz
  | 0, 1 => .rz
  | 0, 2 => .rnc
  | 0, 3 => .rc
  | 0, 4 => .rpo
  | 0, 5 => .rpe
  | 0, 6 => .rp
  | 0, _ => .rm
  | 1, 1 => .ret
  | 1, 3 => .shlx
  | 1, 5 => .pchl
  | 1, 7 => .sphl
  | 1, _ => match StackPair.ofCode (y.extractLsb' 1 2) with
            | some rp => .popRp rp
            | none => .popPsw
  | 2, 0 => .jnz a16
  | 2, 1 => .jz a16
  | 2, 2 => .jnc a16
  | 2, 3 => .jc a16
  | 2, 4 => .jpo a16
  | 2, 5 => .jpe a16
  | 2, 6 => .jp a16
  | 2, _ => .jm a16
  | 3, 0 => .jmp a16
  | 3, 1 => .rstv
  | 3, 2 => .out d8
  | 3, 3 => .inp d8
  | 3, 4 => .xthl
  | 3, 5 => .xchg
  | 3, 6 => .di
  | 3, _ => .ei
  | 4, 0 => .cnz a16
  | 4, 1 => .cz a16
  | 4, 2 => .cnc a16
  | 4, 3 => .cc a16
  | 4, 4 => .cpo a16
  | 4, 5 => .cpe a16
  | 4, 6 => .cp a16
  | 4, _ => .cm a16
  | 5, 1 => .call a16
  | 5, 3 => .jnui a16
  | 5, 5 => .lhlx
  | 5, 7 => .jui a16
  | 5, _ => match StackPair.ofCode (y.extractLsb' 1 2) with
            | some rp => .pushRp rp
            | none => .pushPsw
  | 6, 0 => .adi d8
  | 6, 1 => .aci d8
  | 6, 2 => .sui d8
  | 6, 3 => .sbi d8
  | 6, 4 => .ani d8
  | 6, 5 => .xri d8
  | 6, 6 => .ori d8
  | 6, _ => .cpi d8
  | _, n => .rst n

/-- The instruction whose bytes are `b0`, `b1`, `b2`, as far as it has so many (30_encoding.md R96 to R98). Bytes beyond its
length play no part. -/
def decodeWith (b0 b1 b2 : Byte) : Instr :=
  let y := b0.extractLsb' 3 3
  let z := b0.extractLsb' 0 3
  match (b0.extractLsb' 6 2).toNat with
  | 0 => decode00 y z b1 (ofBytes b2 b1)
  | 1 => decode01 y z
  | 2 => decode10 y z
  | _ => decode11 y z b1 (ofBytes b2 b1)

/-- The length in bytes, from the first byte alone (30_encoding.md R101). -/
def opcodeLength (b : Byte) : Nat :=
  if b ∈ [0xC3#8, 0xCD#8, 0x22#8, 0x2A#8, 0x32#8, 0x3A#8, 0xDD#8, 0xFD#8] then 3
  else if b &&& 0xC7#8 = 0xC2#8 ∨ b &&& 0xC7#8 = 0xC4#8 then 3
  else if b &&& 0xCF#8 = 0x01#8 then 3
  else if b &&& 0xC7#8 = 0x06#8 then 2
  else if b &&& 0xC7#8 = 0xC6#8 then 2
  else if b ∈ [0xD3#8, 0xDB#8, 0x28#8, 0x38#8] then 2
  else 1

/-- Why a list of bytes is no instruction: only because bytes are wanting (30_encoding.md R100). -/
inductive DecodeError
  /-- There is no first byte. -/
  | noOpcode
  /-- The first byte asks for more bytes than there are. -/
  | missingOperand (opcode : Byte)
deriving DecidableEq, Repr

/-- The instruction at the head of a list of bytes, and the bytes after it. -/
def decode : List Byte → Except DecodeError (Instr × List Byte)
  | [] => .error .noOpcode
  | b0 :: rest =>
    if rest.length + 1 < opcodeLength b0 then .error (.missingOperand b0)
    else .ok (decodeWith b0 (rest.getD 0 0x00#8) (rest.getD 1 0x00#8), rest.drop (opcodeLength b0 - 1))

/-! ## The encoder (30_encoding.md R91) -/

/-- An opcode followed by a 16-bit operand, low-order byte first (30_encoding.md R90, R96). -/
def withWord (opcode : Byte) (w : Word) : List Byte := [opcode, loByte w, hiByte w]

/-- The bytes of an instruction, in address order, from the encoding column of opcode_table.json. -/
def encode : Instr → List Byte
  | .movRR dst src => [0b01#2 ++ dst.code ++ src.code]
  | .movRM dst => [0b01#2 ++ dst.code ++ 0b110#3]
  | .movMR src => [0b01110#5 ++ src.code]
  | .mviR dst v => [0b00#2 ++ dst.code ++ 0b110#3, v]
  | .mviM v => [0b00110110#8, v]
  | .lxi rp w => withWord (0b00#2 ++ rp.code ++ 0b0001#4) w
  | .lda w => withWord 0b00111010#8 w
  | .sta w => withWord 0b00110010#8 w
  | .lhld w => withWord 0b00101010#8 w
  | .shld w => withWord 0b00100010#8 w
  | .ldax rp => [0b000#3 ++ rp.code ++ 0b1010#4]
  | .stax rp => [0b000#3 ++ rp.code ++ 0b0010#4]
  | .xchg => [0b11101011#8]
  | .addR src => [0b10000#5 ++ src.code]
  | .addM => [0b10000110#8]
  | .adi v => [0b11000110#8, v]
  | .adcR src => [0b10001#5 ++ src.code]
  | .adcM => [0b10001110#8]
  | .aci v => [0b11001110#8, v]
  | .subR src => [0b10010#5 ++ src.code]
  | .subM => [0b10010110#8]
  | .sui v => [0b11010110#8, v]
  | .sbbR src => [0b10011#5 ++ src.code]
  | .sbbM => [0b10011110#8]
  | .sbi v => [0b11011110#8, v]
  | .inrR dst => [0b00#2 ++ dst.code ++ 0b100#3]
  | .inrM => [0b00110100#8]
  | .dcrR dst => [0b00#2 ++ dst.code ++ 0b101#3]
  | .dcrM => [0b00110101#8]
  | .inx rp => [0b00#2 ++ rp.code ++ 0b0011#4]
  | .dcx rp => [0b00#2 ++ rp.code ++ 0b1011#4]
  | .dad rp => [0b00#2 ++ rp.code ++ 0b1001#4]
  | .daa => [0b00100111#8]
  | .anaR src => [0b10100#5 ++ src.code]
  | .anaM => [0b10100110#8]
  | .ani v => [0b11100110#8, v]
  | .xraR src => [0b10101#5 ++ src.code]
  | .xraM => [0b10101110#8]
  | .xri v => [0b11101110#8, v]
  | .oraR src => [0b10110#5 ++ src.code]
  | .oraM => [0b10110110#8]
  | .ori v => [0b11110110#8, v]
  | .cmpR src => [0b10111#5 ++ src.code]
  | .cmpM => [0b10111110#8]
  | .cpi v => [0b11111110#8, v]
  | .rlc => [0b00000111#8]
  | .rrc => [0b00001111#8]
  | .ral => [0b00010111#8]
  | .rar => [0b00011111#8]
  | .cma => [0b00101111#8]
  | .cmc => [0b00111111#8]
  | .stc => [0b00110111#8]
  | .jmp w => withWord 0b11000011#8 w
  | .jnz w => withWord 0b11000010#8 w
  | .jz w => withWord 0b11001010#8 w
  | .jnc w => withWord 0b11010010#8 w
  | .jc w => withWord 0b11011010#8 w
  | .jpo w => withWord 0b11100010#8 w
  | .jpe w => withWord 0b11101010#8 w
  | .jp w => withWord 0b11110010#8 w
  | .jm w => withWord 0b11111010#8 w
  | .call w => withWord 0b11001101#8 w
  | .cnz w => withWord 0b11000100#8 w
  | .cz w => withWord 0b11001100#8 w
  | .cnc w => withWord 0b11010100#8 w
  | .cc w => withWord 0b11011100#8 w
  | .cpo w => withWord 0b11100100#8 w
  | .cpe w => withWord 0b11101100#8 w
  | .cp w => withWord 0b11110100#8 w
  | .cm w => withWord 0b11111100#8 w
  | .ret => [0b11001001#8]
  | .rnz => [0b11000000#8]
  | .rz => [0b11001000#8]
  | .rnc => [0b11010000#8]
  | .rc => [0b11011000#8]
  | .rpo => [0b11100000#8]
  | .rpe => [0b11101000#8]
  | .rp => [0b11110000#8]
  | .rm => [0b11111000#8]
  | .rst n => [0b11#2 ++ BitVec.ofNat 3 n ++ 0b111#3]
  | .pchl => [0b11101001#8]
  | .pushRp rp => [0b11#2 ++ rp.code ++ 0b0101#4]
  | .pushPsw => [0b11110101#8]
  | .popRp rp => [0b11#2 ++ rp.code ++ 0b0001#4]
  | .popPsw => [0b11110001#8]
  | .xthl => [0b11100011#8]
  | .sphl => [0b11111001#8]
  | .inp p => [0b11011011#8, p]
  | .out p => [0b11010011#8, p]
  | .ei => [0b11111011#8]
  | .di => [0b11110011#8]
  | .hlt => [0b01110110#8]
  | .nop => [0b00000000#8]
  | .rim => [0b00100000#8]
  | .sim => [0b00110000#8]
  | .arhl => [0b00010000#8]
  | .dsub => [0b00001000#8]
  | .jnui w => withWord 0b11011101#8 w
  | .jui w => withWord 0b11111101#8 w
  | .ldhi v => [0b00101000#8, v]
  | .ldsi v => [0b00111000#8, v]
  | .lhlx => [0b11101101#8]
  | .rdel => [0b00011000#8]
  | .rstv => [0b11001011#8]
  | .shlx => [0b11011001#8]

/-! ## The host's word -/

/-- The number of bytes of the longest instruction (30_encoding.md R90). -/
def longestInstr : Nat := 3

/-- The bytes of an instruction given as one number whose bit 0 is bit 0 of the first byte, zero above `nbits`, up to the
longest instruction. -/
def tableBytes (nbits w : Nat) : List Byte :=
  let v := w % 2 ^ nbits
  [BitVec.ofNat 8 v, BitVec.ofNat 8 (v / 256), BitVec.ofNat 8 (v / 65536)]

/-- What the decoder reads from an instruction given as a number, as opcode_table.json numbers its bits. -/
def decodeTableWord (nbits w : Nat) : Option Instr :=
  match decode (tableBytes nbits w) with
  | .ok (i, _) => some i
  | .error _ => none

end Sys2Proof
end

