-- ==== Sys2Proof/Config.lean ====
section
/-! DEFINITION. What the hardware fixes once for all, the values the spec leaves open (free values, without a body), and
the speed grades, which no rule reads. -/

namespace Sys2Proof

/-- The number of memory addresses (00_scope.md R6; 20_memory.md R60). -/
def Config.memorySize : Nat := 65536

/-- What a RAM address that nothing has written reads as. DESIGN CHOICE, unsafe (log 3): the spec states no power-on
contents (20_memory.md R71; 91_not_in_source.md N24). -/
def Config.unlistedByte : Byte := 0x00#8

/-- The `n`-th draw of a bit the spec leaves open, `any1()` of 00_scope.md R9. A free value: it has no body, so that
nothing can be proved of it (log 4). -/
opaque Config.freeBit : Nat → Bool

/-- The `n`-th draw of a byte the spec leaves open, `any8()` of 00_scope.md R9. A free value without a body (log 5). -/
opaque Config.freeByte : Nat → Byte

/-- The four speed grades (00_scope.md R6). No rule of the model reads one (70_reset_and_hazards.md R368). -/
inductive SpeedGrade
  | mhz3 | mhz5 | mhz6 | mhz8
deriving DecidableEq, Repr

/-- The least clock period of each grade in nanoseconds (70_reset_and_hazards.md R366); information only. -/
def SpeedGrade.minClockPeriod : SpeedGrade → Nat
  | .mhz3 => 320
  | .mhz5 => 200
  | .mhz6 => 167
  | .mhz8 => 125

/-- The greatest clock period in nanoseconds, the same for every grade (70_reset_and_hazards.md R366). -/
def Config.maxClockPeriod : Nat := 2000

end Sys2Proof
end

