-- ==== Sys2Proof/Machine/State.lean ====
section
/-! DEFINITION. The state of the machine as plain data: registers and flags (10_state.md sections 1 to 3), interrupt, serial
and bus control state (section 4), memory (20_memory.md), the environment the spec leaves to the platform (00_scope.md R7),
and four fields of the model's own; the state after reset (10_state.md R49); the reasons a step can stop. -/

namespace Sys2Proof.Machine

/-! ## Registers and flags -/

/-- The accumulator and the six data registers (10_state.md R20). -/
structure Regs where
  a : Byte
  b : Byte
  c : Byte
  d : Byte
  e : Byte
  h : Byte
  l : Byte
deriving DecidableEq, Repr

/-- The seven flags (10_state.md R27), in the order of the flag byte. Bit 3 of that byte is a constant and no state. -/
structure Flags where
  /-- sign, bit 7 -/
  s : Bool
  /-- zero, bit 6 -/
  z : Bool
  /-- overflow and underflow indicator, bit 5 -/
  ui : Bool
  /-- auxiliary carry, bit 4 -/
  ac : Bool
  /-- parity, bit 2 -/
  p : Bool
  /-- two's complement overflow, bit 1 -/
  v : Bool
  /-- carry, bit 0 -/
  cy : Bool
deriving DecidableEq, Repr

/-! ## Interrupt, serial and bus control state -/

/-- The flip-flops of 10_state.md section 4. -/
structure Control where
  /-- INTE, the interrupt enable (R36) -/
  inte : Bool
  /-- M7.5: true masks RST7.5 (R37) -/
  m75 : Bool
  /-- M6.5: true masks RST6.5 (R37) -/
  m65 : Bool
  /-- M5.5: true masks RST5.5 (R37) -/
  m55 : Bool
  /-- R7.5, the RST7.5 request latch (R38) -/
  r75 : Bool
  /-- TRAPL, the TRAP request latch (R39) -/
  trapL : Bool
  /-- SOD, the serial output latch (R40) -/
  sod : Bool
  /-- HALTED (R43) -/
  halted : Bool
  /-- EIPEND, the one-instruction delay of EI (R44) -/
  eiPend : Bool
  /-- TRAPIE.armed (R45) -/
  trapArmed : Bool
  /-- TRAPIE.saved (R45) -/
  trapSaved : Bool
  /-- the HLDA flip-flop (R46) -/
  hlda : Bool
deriving DecidableEq, Repr

/-! ## Memory -/

/-- The cells of memory that differ from `Config.unlistedByte`, by rising address. -/
abbrev Memory := List Host.Cell

/-- The cells from address `lo` on are in canonical form: addresses strictly rising and inside the space, no cell equal to
what an unlisted address reads as. -/
def Memory.wfFrom (lo : Nat) : Memory → Bool
  | [] => true
  | (a, v) :: m => decide (lo ≤ a) && decide (a < Config.memorySize) && (v != Config.unlistedByte) && wfFrom (a + 1) m

/-- The canonical form: equal memories are equal lists. -/
def Memory.wf (m : Memory) : Bool := Memory.wfFrom 0 m

/-- What stands behind an address (`MemMap`, 00_scope.md R7; 20_memory.md R71). -/
inductive MemKind
  /-- reads what was last written -/
  | ram
  /-- reads its contents; a write changes nothing -/
  | rom
  /-- reads what the environment presents; a write is handed to the device -/
  | device
  /-- a read is an open value, a write changes nothing -/
  | absent
deriving DecidableEq, Repr

/-- A range of addresses and what stands behind it. -/
structure Region where
  base : Nat
  size : Nat
  kind : MemKind
deriving DecidableEq, Repr

/-! ## The environment -/

/-- What the environment does before one machine cycle: nothing; HOLD has gone high, so that the cycle waits, and another bus
master, granted the bus, writes memory (60_exceptions.md R328; 20_memory.md R67, R75); RESET IN is asserted and cuts the
instruction (70_reset_and_hazards.md R350, U7). -/
inductive CycleEvent
  | undisturbed
  | hold (writes : List (Word × Byte))
  | resetIn
deriving DecidableEq, Repr

/-- What the environment reports at a boundary, or where a HOLD has stopped an activity, and holds until the next report
(60_exceptions.md R311, R328; D6, D7, D21, D22, D24; log 8). -/
structure Sample where
  /-- a rising edge on TRAP since the last report -/
  trapEdge : Bool
  /-- a rising edge on RST7.5 since the last report -/
  rst75Edge : Bool
  /-- the level of TRAP -/
  trap : Bool
  /-- the level of RST6.5 -/
  rst65 : Bool
  /-- the level of RST5.5 -/
  rst55 : Bool
  /-- the level of INTR -/
  intr : Bool
  /-- the level of SID -/
  sid : Bool
  /-- HOLD is requested -/
  hold : Bool
  /-- RESET IN is asserted (the pin is low) -/
  resetIn : Bool
  /-- the bytes an interrupting device supplies in the first, second and third acknowledge cycle -/
  inta0 : Byte
  inta1 : Byte
  inta2 : Byte
  /-- the ports at which a device presents a byte, with the byte; any other port reads as an open value -/
  ports : List (Byte × Byte)
  /-- the device addresses at which a byte is presented, with the byte; any other reads as an open value -/
  devices : List (Word × Byte)
  /-- what another master writes while it holds the bus, if HOLD is high -/
  master : List (Word × Byte)
  /-- what happens before the first, second, ... machine cycle after this report; nothing once the list ends -/
  cycles : List CycleEvent
deriving DecidableEq, Repr

/-- No pin active, nobody on the bus: the default of 92_eei_decisions.md, "all pins low for ever", RESET IN not asserted. -/
def Sample.idle : Sample where
  trapEdge := false
  rst75Edge := false
  trap := false
  rst65 := false
  rst55 := false
  intr := false
  sid := false
  hold := false
  resetIn := false
  inta0 := 0x00#8
  inta1 := 0x00#8
  inta2 := 0x00#8
  ports := []
  devices := []
  master := []
  cycles := []

/-- One machine cycle of the processor, by the kinds of 20_memory.md R73, with what was moved. -/
inductive BusCycle
  | opcodeFetch (address : Word) (data : Byte)
  | memoryRead (address : Word) (data : Byte)
  | memoryWrite (address : Word) (data : Byte)
  | ioRead (port : Byte) (data : Byte)
  | ioWrite (port : Byte) (data : Byte)
  | interruptAcknowledge (data : Byte)
deriving DecidableEq, Repr

/-! ## What can be under way -/

/-- The four restart interrupts (60_exceptions.md R302). -/
inductive Restart
  | trap | rst75 | rst65 | rst55
deriving DecidableEq, Repr

/-- The five interrupts (60_exceptions.md R302). -/
inductive Request
  | restart (k : Restart)
  | intr
deriving DecidableEq, Repr

/-- What makes machine cycles: an instruction, or the entry of an interrupt (60_exceptions.md R311). -/
inductive Activity
  | instruction
  | entry (q : Request)
deriving DecidableEq, Repr

/-- What a HOLD has stopped between two machine cycles, and will go on with the next one (60_exceptions.md R328). -/
structure Suspended where
  activity : Activity
  /-- the machine cycles it has made, the oldest first -/
  made : List BusCycle
deriving DecidableEq, Repr

/-! ## The state -/

/-- The whole machine. -/
structure State where
  /-- A, B, C, D, E, H, L (10_state.md R20) -/
  regs : Regs
  /-- the stack pointer (10_state.md R24) -/
  sp : Word
  /-- the program counter (10_state.md R25) -/
  pc : Word
  /-- the flag register (10_state.md R27) -/
  flags : Flags
  /-- interrupt, serial and bus control (10_state.md R36 to R46) -/
  ctl : Control
  /-- the memory cells (20_memory.md R60) -/
  mem : Memory
  /-- what stands behind each address; RAM where no region covers it (20_memory.md R71) -/
  memMap : List Region
  /-- the last sample -/
  env : Sample
  /-- the samples to come, the next first -/
  inputs : List Sample
  /-- the model's own: how many open values have been drawn -/
  draws : Nat
  /-- the model's own: the machine cycles so far, the newest first -/
  bus : List BusCycle
  /-- the model's own: HOLD or RESET IN has cut the step now running, which makes no further cycle -/
  abandoned : Bool
  /-- the model's own: what a HOLD has stopped part-way (60_exceptions.md R328; log 16) -/
  suspended : Option Suspended
deriving DecidableEq, Repr

/-! ## Reasons to stop -/

/-- The hardware raises no synchronous exception and no access can fail (60_exceptions.md R300): there is no fault. -/
inductive Fault
deriving DecidableEq, Repr

/-- Why the model answers no next state. -/
inductive Refusal
  /-- Raised by `exec` for an instruction that has no meaning yet. Safe: nothing can be proved of such a step. -/
  | notModelled (mnemonic : String)
  /-- Raised by interrupt acknowledge when the device supplies a first byte that is neither RST n nor CALL; the spec refuses
  it (60_exceptions.md R321, U6). Safe: the hardware goes on in some way the spec does not adopt. -/
  | acknowledgedOther (opcode : Byte)
deriving DecidableEq, Repr

/-- The outcome of a step or of a meaning. -/
abbrev Result := Host.Outcome State Fault Refusal

/-! ## Updates -/

/-- Replaces the data registers. -/
def State.setRegs (s : State) (x : Regs) : State := { s with regs := x }

/-- Replaces the stack pointer. -/
def State.setSp (s : State) (x : Word) : State := { s with sp := x }

/-- Replaces the program counter. -/
def State.setPc (s : State) (x : Word) : State := { s with pc := x }

/-- Replaces the flags. -/
def State.setFlags (s : State) (x : Flags) : State := { s with flags := x }

/-- Replaces the control state. -/
def State.setCtl (s : State) (x : Control) : State := { s with ctl := x }

/-- Replaces the memory cells. -/
def State.setMem (s : State) (x : Memory) : State := { s with mem := x }

/-- Replaces the current sample. -/
def State.setEnv (s : State) (x : Sample) : State := { s with env := x }

/-- Replaces the samples to come. -/
def State.setInputs (s : State) (x : List Sample) : State := { s with inputs := x }

/-- Replaces the count of draws. -/
def State.setDraws (s : State) (x : Nat) : State := { s with draws := x }

/-- Replaces the bus history. -/
def State.setBus (s : State) (x : List BusCycle) : State := { s with bus := x }

/-- Says whether the running step is cut. -/
def State.setAbandoned (s : State) (x : Bool) : State := { s with abandoned := x }

/-- Says what a HOLD has stopped. -/
def State.setSuspended (s : State) (x : Option Suspended) : State := { s with suspended := x }

/-! ## Reset -/

/-- The control state that RESET IN leaves (10_state.md R49). TRAPIE.saved has no stated value: DESIGN CHOICE (log 2). -/
def Control.afterReset : Control where
  inte := false
  m75 := true
  m65 := true
  m55 := true
  r75 := false
  trapL := false
  sod := false
  halted := false
  eiPend := false
  trapArmed := false
  trapSaved := false
  hlda := false

/-- The machine right after reset (10_state.md R49; 70_reset_and_hazards.md R351). A to L, SP and the flags have no stated
value: zero by DESIGN CHOICE, unsafe (log 1). -/
def State.reset : State where
  regs := { a := 0x00#8, b := 0x00#8, c := 0x00#8, d := 0x00#8, e := 0x00#8, h := 0x00#8, l := 0x00#8 }
  sp := 0x0000#16
  pc := 0x0000#16
  flags := { s := false, z := false, ui := false, ac := false, p := false, v := false, cy := false }
  ctl := Control.afterReset
  mem := []
  memMap := []
  env := Sample.idle
  inputs := []
  draws := 0
  bus := []
  abandoned := false
  suspended := none

end Sys2Proof.Machine
end

