-- ==== Sys2Proof/Machine/Flags.lean ====
section
/-! DEFINITION. Every flag computation: `add8`, `sub8`, `szp` (10_state.md R29 to R34), the 16-bit forms of DAD, INX, DCX
and DSUB, the decimal adjustment (41_arithmetic.md R162), and the flag byte (10_state.md R27, R28). -/

namespace Sys2Proof.Machine

/-- True for an even number of 1 bits (00_scope.md R9). -/
def parity (v : Byte) : Bool :=
  !(v.getLsbD 0 ^^ v.getLsbD 1 ^^ v.getLsbD 2 ^^ v.getLsbD 3 ^^ v.getLsbD 4 ^^ v.getLsbD 5 ^^ v.getLsbD 6 ^^ v.getLsbD 7)

/-- The majority of three bits (00_scope.md R9). -/
def maj (a b c : Bool) : Bool := (a && b) || (a && c) || (b && c)

/-- What an 8-bit addition or subtraction gives: the result and the four flags that are not read off it. -/
structure Alu where
  r : Byte
  cy : Bool
  ac : Bool
  v : Bool
  ui : Bool
deriving DecidableEq, Repr

/-- 8-bit addition with carry in (10_state.md R32). -/
def add8 (a b : Byte) (c : Bool) : Alu :=
  let sum := a.toNat + b.toNat + c.toNat
  let r := BitVec.ofNat 8 sum
  { r := r
    cy := decide (255 < sum)
    ac := decide (15 < a.toNat % 16 + b.toNat % 16 + c.toNat)
    v := (a.msb == b.msb) && (r.msb != a.msb)
    ui := maj a.msb b.msb r.msb }

/-- 8-bit subtraction with borrow in: the addition of the complement, the carry out inverted (10_state.md R33). -/
def sub8 (a b : Byte) (c : Bool) : Alu :=
  let x := add8 a (~~~b) (!c)
  { x with cy := !x.cy }

/-- S, Z, P from an 8-bit result, the other flags kept (10_state.md R34). -/
def szp (r : Byte) (f : Flags) : Flags := { f with s := r.msb, z := r == 0x00#8, p := parity r }

/-- All seven flags from an addition, subtraction or comparison (41_arithmetic.md R140). -/
def Alu.flags (x : Alu) : Flags where
  s := x.r.msb
  z := x.r == 0x00#8
  ui := x.ui
  ac := x.ac
  p := parity x.r
  v := x.v
  cy := x.cy

/-- The flags after INR and DCR: all but CY (41_arithmetic.md R153, R155). -/
def Alu.flagsKeepingCarry (x : Alu) (f : Flags) : Flags := { x.flags with cy := f.cy }

/-- The flags after AND, OR, exclusive OR: S, Z, P from the result, CY cleared, AC as given; V and UI open
(42_logical.md R171, R174, R177). -/
def logicFlags (r : Byte) (ac v ui : Bool) : Flags where
  s := r.msb
  z := r == 0x00#8
  ui := ui
  ac := ac
  p := parity r
  v := v
  cy := false

/-- 16-bit addition with CY and V (41_arithmetic.md R161). -/
structure Sum16 where
  r : Word
  cy : Bool
  v : Bool
deriving DecidableEq, Repr

/-- The addition DAD performs (41_arithmetic.md R161). -/
def add16 (a b : Word) : Sum16 :=
  let sum := a.toNat + b.toNat
  let r := BitVec.ofNat 16 sum
  { r := r
    cy := decide (65535 < sum)
    v := (a.msb == b.msb) && (r.msb != a.msb) }

/-- UI after INX: the result is 0000H (41_arithmetic.md R159). -/
def inxUi (r : Word) : Bool := r == 0x0000#16

/-- UI after DCX: the result is FFFFH (41_arithmetic.md R160). -/
def dcxUi (r : Word) : Bool := r == 0xFFFF#16

/-- The flags after DSUB of `a - b`: Z, S, CY, V, UI of the 16-bit subtraction; P and AC open (45_extended.md R272). -/
def dsubFlags (a b : Word) (p ac : Bool) : Flags :=
  let r := a - b
  { s := r.msb
    z := r == 0x0000#16
    ui := maj a.msb (!b.msb) r.msb
    ac := ac
    p := p
    v := (a.msb != b.msb) && (r.msb != a.msb)
    cy := decide (a.toNat < b.toNat) }

/-- What DAA does to A, CY and AC (41_arithmetic.md R162). -/
structure Adjusted where
  r : Byte
  cy : Bool
  ac : Bool
deriving DecidableEq, Repr

/-- The decimal adjustment of `a` after an addition that left `ac` and `cy` (41_arithmetic.md R162). -/
def decimalAdjust (a : Byte) (ac cy : Bool) : Adjusted :=
  let lo := a.toNat % 16
  let low : Byte := if 9 < lo || ac then 0x06#8 else 0x00#8
  let c := decide (0x99 < a.toNat) || cy
  let adj := if c then low ||| 0x60#8 else low
  { r := a + adj
    cy := c
    ac := decide (15 < lo + adj.toNat % 16) }

/-- The flag byte `{S, Z, UI, AC, 0, P, V, CY}` (10_state.md R28). -/
def Flags.toByte (f : Flags) : Byte :=
  BitVec.ofBool f.s ++ BitVec.ofBool f.z ++ BitVec.ofBool f.ui ++ BitVec.ofBool f.ac ++ 0b0#1 ++ BitVec.ofBool f.p
    ++ BitVec.ofBool f.v ++ BitVec.ofBool f.cy

/-- The flags in a byte that POP PSW reads; bit 3 is ignored (10_state.md R28). -/
def Flags.ofByte (b : Byte) : Flags where
  s := b.getLsbD 7
  z := b.getLsbD 6
  ui := b.getLsbD 5
  ac := b.getLsbD 4
  p := b.getLsbD 2
  v := b.getLsbD 1
  cy := b.getLsbD 0

end Sys2Proof.Machine
end

