-- ==== Sys2Proof/Machine/Operands.lean ====
section
/-! DEFINITION. The operand forms: registers, pairs and conditions (10_state.md R21 to R23; 30_encoding.md R94). -/

namespace Sys2Proof.Machine

/-- Read of an 8-bit register, `x[i]` (10_state.md R21). -/
def Regs.get (x : Regs) : Reg → Byte
  | .a => x.a
  | .b => x.b
  | .c => x.c
  | .d => x.d
  | .e => x.e
  | .h => x.h
  | .l => x.l

/-- Write of an 8-bit register, `x[i] <- v` (10_state.md R21). -/
def Regs.set (x : Regs) (r : Reg) (v : Byte) : Regs :=
  match r with
  | .a => { x with a := v }
  | .b => { x with b := v }
  | .c => { x with c := v }
  | .d => { x with d := v }
  | .e => { x with e := v }
  | .h => { x with h := v }
  | .l => { x with l := v }

/-- The pair BC, B the high byte (10_state.md R23). -/
def Regs.bc (x : Regs) : Word := ofBytes x.b x.c

/-- The pair DE, D the high byte (10_state.md R23). -/
def Regs.de (x : Regs) : Word := ofBytes x.d x.e

/-- The pair HL, H the high byte (10_state.md R23). -/
def Regs.hl (x : Regs) : Word := ofBytes x.h x.l

/-- `BC <- v` (00_scope.md R9). -/
def Regs.setBc (x : Regs) (v : Word) : Regs := { x with b := hiByte v, c := loByte v }

/-- `DE <- v` (00_scope.md R9). -/
def Regs.setDe (x : Regs) (v : Word) : Regs := { x with d := hiByte v, e := loByte v }

/-- `HL <- v` (00_scope.md R9). -/
def Regs.setHl (x : Regs) (v : Word) : Regs := { x with h := hiByte v, l := loByte v }

/-- The address in the pair of LDAX and STAX (40_data_transfer.md R131, R132). -/
def Regs.index (x : Regs) : IndexPair → Word
  | .bc => x.bc
  | .de => x.de

/-- The pair of PUSH rp (44_stack_io_control.md R240). -/
def Regs.stackPair (x : Regs) : StackPair → Word
  | .bc => x.bc
  | .de => x.de
  | .hl => x.hl

/-- The write of the pair of POP rp (44_stack_io_control.md R242). -/
def Regs.setStackPair (x : Regs) (rp : StackPair) (v : Word) : Regs :=
  match rp with
  | .bc => x.setBc v
  | .de => x.setDe v
  | .hl => x.setHl v

/-- Read of a register of the machine. -/
def State.reg (s : State) (r : Reg) : Byte := s.regs.get r

/-- Write of a register of the machine. -/
def State.setReg (s : State) (r : Reg) (v : Byte) : State := s.setRegs (s.regs.set r v)

/-- The address M stands for (10_state.md R21). -/
def State.hl (s : State) : Word := s.regs.hl

/-- Read of a pair, `rp[j]` (10_state.md R23). -/
def State.pair (s : State) : Pair → Word
  | .bc => s.regs.bc
  | .de => s.regs.de
  | .hl => s.regs.hl
  | .sp => s.sp

/-- Write of a pair, `rp[j] <- v` (10_state.md R23). -/
def State.setPair (s : State) (rp : Pair) (v : Word) : State :=
  match rp with
  | .bc => s.setRegs (s.regs.setBc v)
  | .de => s.setRegs (s.regs.setDe v)
  | .hl => s.setRegs (s.regs.setHl v)
  | .sp => s.setSp v

/-- The conditions of the conditional jumps, calls and returns (30_encoding.md R94), and the two on UI of JNUI and JUI
(45_extended.md R273, R274). -/
inductive Cond
  | nz | z | nc | c | po | pe | p | m | nui | ui
deriving DecidableEq, Repr

/-- When a condition is true (30_encoding.md R94; 45_extended.md R273, R274). -/
def Cond.holds (f : Flags) : Cond → Bool
  | .nz => !f.z
  | .z => f.z
  | .nc => !f.cy
  | .c => f.cy
  | .po => !f.p
  | .pe => f.p
  | .p => !f.s
  | .m => f.s
  | .nui => !f.ui
  | .ui => f.ui

/-- The condition of a 3-bit condition code (30_encoding.md R94). -/
def Cond.ofCode (ccc : BitVec 3) : Cond :=
  match ccc.toNat with
  | 0 => .nz
  | 1 => .z
  | 2 => .nc
  | 3 => .c
  | 4 => .po
  | 5 => .pe
  | 6 => .p
  | _ => .m

/-- The condition on which a three-byte instruction reads its third byte: the conditional jumps and calls (43_branch.md
R202, R212) and JNUI, JUI (45_extended.md R273, R274). `none`: it always reads it (20_memory.md R68). -/
def thirdByteCond (opcode : Byte) : Option Cond :=
  if opcode &&& 0xC7#8 = 0xC2#8 ∨ opcode &&& 0xC7#8 = 0xC4#8 then some (Cond.ofCode (opcode.extractLsb' 3 3))
  else if opcode = 0xDD#8 then some .nui
  else if opcode = 0xFD#8 then some .ui
  else none

/-- The byte RIM loads (10_state.md R42), with `ie` its bit 3. -/
def rimByte (sid r75 rst65 rst55 ie m75 m65 m55 : Bool) : Byte :=
  BitVec.ofBool sid ++ BitVec.ofBool r75 ++ BitVec.ofBool rst65 ++ BitVec.ofBool rst55 ++ BitVec.ofBool ie
    ++ BitVec.ofBool m75 ++ BitVec.ofBool m65 ++ BitVec.ofBool m55

/-- What SIM does to the control state with the byte `a` (10_state.md R41; 44_stack_io_control.md R256). -/
def Control.afterSim (c : Control) (a : Byte) : Control :=
  { c with
    m75 := if a.getLsbD 3 then a.getLsbD 2 else c.m75
    m65 := if a.getLsbD 3 then a.getLsbD 1 else c.m65
    m55 := if a.getLsbD 3 then a.getLsbD 0 else c.m55
    r75 := if a.getLsbD 4 then false else c.r75
    sod := if a.getLsbD 6 then a.getLsbD 7 else c.sod }

end Sys2Proof.Machine
end

