-- ==== Sys2Proof/Machine/Ops.lean ====
section
/-! DEFINITION. The named operations: memory, open values, machine cycles, the stack, taking an interrupt and returning
from one, RESET IN (00_scope.md R9; 20_memory.md; 60_exceptions.md R310 to R322; 70_reset_and_hazards.md R350). -/

namespace Sys2Proof.Machine

/-! ## Memory cells -/

/-- The byte in a cell; an unlisted address reads as `Config.unlistedByte` (log 3). -/
def Memory.read (m : Memory) (a : Nat) : Byte :=
  match m with
  | [] => Config.unlistedByte
  | (k, v) :: m => if k = a then v else Memory.read m a

/-- Puts a cell where its address belongs. -/
def Memory.insert (m : Memory) (a : Nat) (v : Byte) : Memory :=
  match m with
  | [] => [(a, v)]
  | (k, w) :: m => if a < k then (a, v) :: (k, w) :: m else (k, w) :: Memory.insert m a v

/-- The cells without the one at an address. -/
def Memory.remove (m : Memory) (a : Nat) : Memory :=
  match m with
  | [] => []
  | (k, w) :: m => if k = a then Memory.remove m a else (k, w) :: Memory.remove m a

/-- The write of a byte, in canonical form: the value an unlisted address reads as leaves no cell. -/
def Memory.write (m : Memory) (a : Nat) (v : Byte) : Memory :=
  if v = Config.unlistedByte then m.remove a else (m.remove a).insert a v

/-- The region covers the address. -/
def Region.covers (r : Region) (a : Nat) : Bool := decide (r.base ≤ a) && decide (a < r.base + r.size)

/-- What stands behind an address; RAM where no region covers it (20_memory.md R71). -/
def State.kindAt (s : State) (a : Word) : MemKind :=
  match s.memMap.find? (fun r => r.covers a.toNat) with
  | some r => r.kind
  | none => .ram

/-- The byte held in memory at an address, looked at without a machine cycle. -/
def State.peek (s : State) (a : Word) : Byte := s.mem.read a.toNat

/-! ## Open values -/

/-- `any1()` (00_scope.md R9): a fresh bit that nothing constrains (log 4). -/
def State.drawBit (s : State) : Bool × State := (Config.freeBit s.draws, s.setDraws (s.draws + 1))

/-- `any8()` (00_scope.md R9): a fresh byte that nothing constrains (log 5). -/
def State.drawByte (s : State) : Byte × State := (Config.freeByte s.draws, s.setDraws (s.draws + 1))

/-- The byte the memory system returns (20_memory.md R62, R71). -/
def State.memorySystemRead (s : State) (a : Word) : Byte × State :=
  match s.kindAt a with
  | .ram => (s.peek a, s)
  | .rom => (s.peek a, s)
  | .device => match s.env.devices.lookup a with
               | some v => (v, s)
               | none => s.drawByte
  | .absent => s.drawByte

/-- What the memory system does with a byte: only RAM keeps it (20_memory.md R62, R71). -/
def State.memorySystemWrite (s : State) (a : Word) (v : Byte) : State :=
  match s.kindAt a with
  | .ram => s.setMem (s.mem.write a.toNat v)
  | .rom => s
  | .device => s
  | .absent => s

/-- The writes another bus master makes while it has the bus (20_memory.md R75). -/
def State.masterWrites (s : State) (ws : List (Word × Byte)) : State :=
  ws.foldl (fun t w => t.memorySystemWrite w.1 w.2) s

/-! ## Machine cycles -/

/-- The byte moved in a machine cycle. -/
def BusCycle.data : BusCycle → Byte
  | .opcodeFetch _ v => v
  | .memoryRead _ v => v
  | .memoryWrite _ v => v
  | .ioRead _ v => v
  | .ioWrite _ v => v
  | .interruptAcknowledge v => v

/-- What the environment does before the next machine cycle: nothing; or HOLD goes high and another master writes
(60_exceptions.md R328); or RESET IN goes active (70_reset_and_hazards.md R350). After the last two this step makes no further
cycle. -/
def State.beforeCycle (s : State) : State :=
  if s.abandoned then s
  else match s.env.cycles with
    | [] => s
    | .undisturbed :: es => s.setEnv { s.env with cycles := es }
    | .hold ws :: es => ((s.setEnv { s.env with cycles := es, hold := true }).masterWrites ws).setAbandoned true
    | .resetIn :: es => (s.setEnv { s.env with cycles := es, resetIn := true }).setAbandoned true

/-- Adds a machine cycle to the history; none happens once the step is cut. -/
def State.record (s : State) (c : BusCycle) : State := if s.abandoned then s else s.setBus (c :: s.bus)

/-- A machine cycle: where it was made before a HOLD, the byte it moved then and nothing more, else the cycle made now, given
with its byte (60_exceptions.md R328; log 16). -/
def State.madeOr (s : State) (now : Byte × State) : Byte × State :=
  match s.suspended with
  | none => now
  | some p => match p.made with
    | [] => now
    | c :: cs => (c.data, s.setSuspended (some { p with made := cs }))

/-- A read cycle of memory of the given kind. -/
def State.readCycle (s : State) (kind : Word → Byte → BusCycle) (a : Word) : Byte × State :=
  let x := s.beforeCycle.memorySystemRead a
  s.madeOr (x.1, x.2.record (kind a x.1))

/-- `MemRead(addr, 1)`: one memory-read machine cycle (20_memory.md R62). -/
def State.memRead (s : State) (a : Word) : Byte × State := s.readCycle .memoryRead a

/-- `MemWrite(addr, 1, v)`: one memory-write machine cycle (20_memory.md R62). -/
def State.memWrite (s : State) (a : Word) (v : Byte) : State :=
  let t := s.beforeCycle
  (s.madeOr (v, if t.abandoned then t else (t.memorySystemWrite a v).record (.memoryWrite a v))).2

/-- `IoRead(p)`: one I/O-read machine cycle (20_memory.md R61, R62; 44_stack_io_control.md R246). -/
def State.ioRead (s : State) (p : Byte) : Byte × State :=
  let t := s.beforeCycle
  let x := match t.env.ports.lookup p with
    | some v => (v, t)
    | none => t.drawByte
  s.madeOr (x.1, x.2.record (.ioRead p x.1))

/-- `IoWrite(p, v)`: one I/O-write machine cycle; the byte is handed to the port and recorded (20_memory.md R61, R62; D6). -/
def State.ioWrite (s : State) (p v : Byte) : State := (s.madeOr (v, s.beforeCycle.record (.ioWrite p v))).2

/-- `IntaRead()`: one interrupt-acknowledge machine cycle in which the device supplies `v`; pc does not move
(60_exceptions.md R318). -/
def State.intaRead (s : State) (v : Byte) : Byte × State := s.madeOr (v, s.beforeCycle.record (.interruptAcknowledge v))

/-! ## The stack -/

/-- `Push16(v)`: high byte at SP - 1, low byte at SP - 2, then SP moves (00_scope.md R9). -/
def State.push16 (s : State) (v : Word) : State :=
  ((s.memWrite (s.sp - 1) (hiByte v)).memWrite (s.sp - 2) (loByte v)).setSp (s.sp - 2)

/-- `Pop16()`: low byte at SP, high byte at SP + 1, then SP moves (00_scope.md R9). -/
def State.pop16 (s : State) : Word × State :=
  let lo := s.memRead s.sp
  let hi := lo.2.memRead (s.sp + 1)
  (ofBytes hi.1 lo.1, hi.2.setSp (s.sp + 2))

/-- A call: the address of the next instruction is pushed and control goes to the target (43_branch.md R211). -/
def State.callTo (s : State) (target : Word) : State := (s.push16 s.pc).setPc target

/-- The address of restart `n`, 8 times `n` (30_encoding.md R95). -/
def restartAddress (n : Nat) : Word := BitVec.ofNat 16 (8 * n)

/-! ## Taking an interrupt, and returning from one -/

/-- The fixed entry points (60_exceptions.md R316). -/
def Restart.vector : Restart → Word
  | .trap => 0x0024#16
  | .rst75 => 0x003C#16
  | .rst65 => 0x0034#16
  | .rst55 => 0x002C#16

/-- What every interrupt does to the control state (60_exceptions.md R315, R318). -/
def Control.onInterrupt (c : Control) : Control := { c with inte := false, eiPend := false, halted := false }

/-- What taking a restart interrupt does to its own latch, and to TRAPIE (60_exceptions.md R315, R324). -/
def Control.onRestart (c : Control) : Restart → Control
  | .trap => { c.onInterrupt with trapSaved := c.inte, trapArmed := true, trapL := false }
  | .rst75 => { c.onInterrupt with r75 := false }
  | .rst65 => c.onInterrupt
  | .rst55 => c.onInterrupt

/-- What taking an interrupt does to the control state (60_exceptions.md R315, R318). -/
def Control.onRequest (c : Control) : Request → Control
  | .restart k => c.onRestart k
  | .intr => c.onInterrupt

/-- The first part of taking an interrupt, which makes no machine cycle (60_exceptions.md R315, R318). -/
def State.accept (s : State) (q : Request) : State := s.setCtl (s.ctl.onRequest q)

/-- The cycles of `Interrupt(INTR)`: the device supplies RST n or CALL, pc un-incremented; any other first byte is refused
(60_exceptions.md R318 to R321). If the acknowledge is cut there is no byte. -/
def State.acknowledge (s : State) : Result :=
  let op := s.intaRead s.env.inta0
  let t := op.2
  if t.abandoned then .next t
  else if op.1 &&& 0xC7#8 = 0xC7#8 then .next (t.callTo (restartAddress (op.1.extractLsb' 3 3).toNat))
  else if op.1 = 0xCD#8 then
    let lo := t.intaRead s.env.inta1
    let hi := lo.2.intaRead s.env.inta2
    .next (hi.2.callTo (ofBytes hi.1 lo.1))
  else .refused (.acknowledgedOther op.1)

/-- The machine cycles of taking an interrupt: pc is pushed and control goes to the entry point (60_exceptions.md R315,
R318). -/
def State.enter (s : State) : Request → Result
  | .restart k => .next (s.callTo k.vector)
  | .intr => s.acknowledge

/-- The return, from an interrupt as from a call: pc is popped and nothing else restored (43_branch.md R221;
60_exceptions.md R322). -/
def State.popPc (s : State) : State :=
  let x := s.pop16
  x.2.setPc x.1

/-! ## RESET IN -/

/-- What RESET IN leaves in a run: the values of 10_state.md R49; A to L, SP and the flags open (U1), TRAPIE.saved and
memory untouched (log 10); what was under way is given up (70_reset_and_hazards.md R350). -/
def State.resetIn (s : State) : State :=
  let n := s.draws
  { s with
    regs :=
      { a := Config.freeByte n
        b := Config.freeByte (n + 1)
        c := Config.freeByte (n + 2)
        d := Config.freeByte (n + 3)
        e := Config.freeByte (n + 4)
        h := Config.freeByte (n + 5)
        l := Config.freeByte (n + 6) }
    sp := ofBytes (Config.freeByte (n + 7)) (Config.freeByte (n + 8))
    pc := 0x0000#16
    flags :=
      { s := Config.freeBit (n + 9)
        z := Config.freeBit (n + 10)
        ui := Config.freeBit (n + 11)
        ac := Config.freeBit (n + 12)
        p := Config.freeBit (n + 13)
        v := Config.freeBit (n + 14)
        cy := Config.freeBit (n + 15) }
    ctl := { Control.afterReset with trapSaved := s.ctl.trapSaved }
    draws := n + 16
    abandoned := false
    suspended := none }

end Sys2Proof.Machine
end

