-- ==== Sys2Proof/Machine/Boundary.lean ====
section
/-! DEFINITION. What happens at an instruction boundary, `Boundary()` of 60_exceptions.md R311: sampling the environment,
RESET IN and HOLD (R328; 70_reset_and_hazards.md R350), recognising a request (R310 to R312), and fetching the next
instruction (10_state.md R26; 20_memory.md R68). -/

namespace Sys2Proof.Machine

/-- The sample that holds when the environment has nothing new to report: the same levels, no edge, nothing on the bus
(log 8). -/
def Sample.held (e : Sample) : Sample :=
  { e with trapEdge := false, rst75Edge := false, master := [], cycles := [] }

/-- Takes the next sample of the environment and latches the edges (60_exceptions.md R303, R304, R311). -/
def State.sample (s : State) : State :=
  let t := match s.inputs with
    | [] => s.setEnv s.env.held
    | e :: es => (s.setEnv e).setInputs es
  t.setCtl { t.ctl with trapL := t.ctl.trapL || t.env.trapEdge, r75 := t.ctl.r75 || t.env.rst75Edge }

/-- The request taken at this boundary, by priority (60_exceptions.md R303 to R307, R310 to R312). -/
def State.request (s : State) : Option Request :=
  let c := s.ctl
  let e := s.env
  if c.trapL && e.trap then some (.restart .trap)
  else if c.inte && !c.eiPend then
    if c.r75 && !c.m75 then some (.restart .rst75)
    else if e.rst65 && !c.m65 then some (.restart .rst65)
    else if e.rst55 && !c.m55 then some (.restart .rst55)
    else if e.intr then some .intr
    else none
  else none

/-- HOLD is acknowledged at this boundary: HLDA is set and the other master has the bus (60_exceptions.md R328). -/
def State.grantBus (s : State) : State := (s.setCtl { s.ctl with hlda := true }).masterWrites s.env.master

/-- HOLD is not requested: HLDA is clear (60_exceptions.md R328). -/
def State.releaseBus (s : State) : State := s.setCtl { s.ctl with hlda := false }

/-- The EI inhibit has done its work at this boundary (60_exceptions.md R311). -/
def State.clearEiPend (s : State) : State := s.setCtl { s.ctl with eiPend := false }

/-- `Fetch8()`: one byte at pc, and pc moves on by one, modulo 65,536 (00_scope.md R9; 10_state.md R26). -/
def State.fetchByte (s : State) (kind : Word → Byte → BusCycle) : Byte × State :=
  let x := s.readCycle kind s.pc
  (x.1, x.2.setPc (s.pc + 1))

/-- The third byte of an instruction: read, but stepped over unread where a conditional jump or call is not taken
(20_memory.md R68; 43_branch.md R202, R212). Unread, its value reaches the decoder and nothing else (log 12). -/
def State.fetchThird (s : State) (opcode : Byte) : Byte × State :=
  match thirdByteCond opcode with
  | none => s.fetchByte .memoryRead
  | some cond => if cond.holds s.flags then s.fetchByte .memoryRead else (s.peek s.pc, s.setPc (s.pc + 1))

/-- Fetches the instruction at pc, its first byte by an opcode fetch and the others by memory reads; pc ends after its last
byte (10_state.md R26; 30_encoding.md R101). -/
def State.fetchInstr (s : State) : Instr × State :=
  let x0 := s.fetchByte .opcodeFetch
  match opcodeLength x0.1 with
  | 1 => (decodeWith x0.1 0x00#8 0x00#8, x0.2)
  | 2 => let x1 := x0.2.fetchByte .memoryRead
         (decodeWith x0.1 x1.1 0x00#8, x1.2)
  | _ => let x1 := x0.2.fetchByte .memoryRead
         let x2 := x1.2.fetchThird x0.1
         (decodeWith x0.1 x1.1 x2.1, x2.2)

/-- What a boundary comes to: the step is over, or it begins or goes on with an activity. -/
inductive Turn
  | done (s : State)
  | run (a : Activity) (s : State)
deriving DecidableEq, Repr

/-- `Boundary()` (60_exceptions.md R311), after RESET IN (70_reset_and_hazards.md R350) and HOLD (60_exceptions.md R328):
log 9. Between two machine cycles, where a HOLD has stopped an activity, no request is looked at: the activity waits while
HOLD is high and then goes on. -/
def State.boundary (s : State) : Turn :=
  let t := s.sample
  if t.env.resetIn then .done t.resetIn
  else if t.env.hold then .done t.grantBus
  else
    let u := t.releaseBus
    match u.suspended with
    | some p => .run p.activity u
    | none => match u.request with
      | some q => .run (.entry q) (u.accept q)
      | none => if u.ctl.halted then .done u else .run .instruction u.clearEiPend

/-- The activity `a`, begun in `v`, stopped by a HOLD where the step from `v` has come to `t`: HLDA is set, memory and the
history of cycles are those of `t`, nothing else of the processor changes (60_exceptions.md R328; log 16). -/
def State.suspend (v : State) (a : Activity) (t : State) : State :=
  let before := match v.suspended with
    | none => []
    | some p => p.made
  { v with
    ctl := { v.ctl with hlda := true }
    mem := t.mem
    env := t.env
    draws := t.draws
    bus := t.bus
    abandoned := false
    suspended := some { activity := a, made := before ++ (t.bus.take (t.bus.length - v.bus.length)).reverse } }

/-- Ends the step that ran the activity `a` from `v`. If RESET IN cut it, the machine is in reset with exactly the writes made
so far (70_reset_and_hazards.md R350, U7); if HOLD did, the activity is suspended (60_exceptions.md R328); else it is over. -/
def settle (a : Activity) (v : State) : Result → Result
  | .next t => .next (if t.abandoned then (if t.env.resetIn then t.resetIn else v.suspend a t) else t.setSuspended none)
  | .fault f => .fault f
  | .refused r => .refused r

/-- Places a byte in memory from outside the machine. -/
def State.poke (s : State) (a : Word) (v : Byte) : State := s.setMem (s.mem.write a.toNat v)

/-- Places an instruction, given as a number as opcode_table.json numbers its bits, at pc (log 11). -/
def State.placeInstr (s : State) (nbits w : Nat) : State :=
  let bytes := tableBytes nbits w
  ((s.poke s.pc (bytes.getD 0 0x00#8)).poke (s.pc + 1) (bytes.getD 1 0x00#8)).poke (s.pc + 2) (bytes.getD 2 0x00#8)

end Sys2Proof.Machine
end

