-- ==== Sys2Proof/Machine/Arithmetic.lean ====
section
/-! DEFINITION. The arithmetic instructions (41_arithmetic.md). -/

namespace Sys2Proof.Machine

/-- A and all seven flags take the outcome of an addition or subtraction (R140). -/
def State.accumulate (s : State) (x : Alu) : State := (s.setRegs { s.regs with a := x.r }).setFlags x.flags

/-- The byte at HL as the second operand of an operation on the state after the read. -/
def State.withM (s : State) (f : State → Byte → State) : State :=
  let x := s.memRead s.hl
  f x.2 x.1

/-- ADD of a byte (R141). -/
def State.add (s : State) (b : Byte) : State := s.accumulate (add8 s.regs.a b false)

/-- ADC of a byte (R144). -/
def State.adc (s : State) (b : Byte) : State := s.accumulate (add8 s.regs.a b s.flags.cy)

/-- SUB of a byte (R147). -/
def State.sub (s : State) (b : Byte) : State := s.accumulate (sub8 s.regs.a b false)

/-- SBB of a byte (R150). -/
def State.sbb (s : State) (b : Byte) : State := s.accumulate (sub8 s.regs.a b s.flags.cy)

/-- The write and the flags of INR and DCR of a register (R153, R155): CY is kept. -/
def State.stepReg (s : State) (dst : Reg) (x : Alu) : State :=
  (s.setReg dst x.r).setFlags (x.flagsKeepingCarry s.flags)

/-- The write and the flags of INR M and DCR M (R154, R156): CY is kept. -/
def State.stepM (s : State) (f : Byte → Alu) : State :=
  s.withM (fun t b => (t.memWrite t.hl (f b).r).setFlags ((f b).flagsKeepingCarry t.flags))

/-- ADD r (R141). -/
def execAddR (src : Reg) (s : State) : Result := .next (s.add (s.reg src))

/-- ADD M (R142). -/
def execAddM (s : State) : Result := .next (s.withM State.add)

/-- ADI d8 (R143). -/
def execAdi (d8 : Byte) (s : State) : Result := .next (s.add d8)

/-- ADC r (R144). -/
def execAdcR (src : Reg) (s : State) : Result := .next (s.adc (s.reg src))

/-- ADC M (R145). -/
def execAdcM (s : State) : Result := .next (s.withM State.adc)

/-- ACI d8 (R146). -/
def execAci (d8 : Byte) (s : State) : Result := .next (s.adc d8)

/-- SUB r (R147). -/
def execSubR (src : Reg) (s : State) : Result := .next (s.sub (s.reg src))

/-- SUB M (R148). -/
def execSubM (s : State) : Result := .next (s.withM State.sub)

/-- SUI d8 (R149). -/
def execSui (d8 : Byte) (s : State) : Result := .next (s.sub d8)

/-- SBB r (R150). -/
def execSbbR (src : Reg) (s : State) : Result := .next (s.sbb (s.reg src))

/-- SBB M (R151). -/
def execSbbM (s : State) : Result := .next (s.withM State.sbb)

/-- SBI d8 (R152). -/
def execSbi (d8 : Byte) (s : State) : Result := .next (s.sbb d8)

/-- INR r (R153). -/
def execInrR (dst : Reg) (s : State) : Result := .next (s.stepReg dst (add8 (s.reg dst) 0x01#8 false))

/-- INR M (R154). -/
def execInrM (s : State) : Result := .next (s.stepM (fun b => add8 b 0x01#8 false))

/-- DCR r (R155). -/
def execDcrR (dst : Reg) (s : State) : Result := .next (s.stepReg dst (sub8 (s.reg dst) 0x01#8 false))

/-- DCR M (R156). -/
def execDcrM (s : State) : Result := .next (s.stepM (fun b => sub8 b 0x01#8 false))

/-- INX rp (R159): of the flags only UI is written. -/
def execInx (rp : Pair) (s : State) : Result :=
  let r := s.pair rp + 1
  .next ((s.setPair rp r).setFlags { s.flags with ui := inxUi r })

/-- DCX rp (R160): of the flags only UI is written. -/
def execDcx (rp : Pair) (s : State) : Result :=
  let r := s.pair rp - 1
  .next ((s.setPair rp r).setFlags { s.flags with ui := dcxUi r })

/-- DAD rp (R161): CY and V of the sum, UI open. -/
def execDad (rp : Pair) (s : State) : Result :=
  let x := add16 s.hl (s.pair rp)
  let ui := s.drawBit
  .next ((ui.2.setRegs (s.regs.setHl x.r)).setFlags { s.flags with cy := x.cy, v := x.v, ui := ui.1 })

/-- DAA (R162): V and UI open. -/
def execDaa (s : State) : Result :=
  let x := decimalAdjust s.regs.a s.flags.ac s.flags.cy
  let v := s.drawBit
  let ui := v.2.drawBit
  .next ((ui.2.setRegs { s.regs with a := x.r }).setFlags
    { szp x.r s.flags with ac := x.ac, cy := x.cy, v := v.1, ui := ui.1 })

end Sys2Proof.Machine
end

