-- ==== Sys2Proof/Machine/Branch.lean ====
section
/-! DEFINITION. The branch instructions (43_branch.md). None writes a flag (R200). A meaning begins with pc after the
instruction's last byte, which is also where control stays when a condition is false (R202, R212, R222). -/

namespace Sys2Proof.Machine

/-- A jump on a condition (R202). -/
def State.jumpIf (s : State) (cond : Cond) (target : Word) : State := if cond.holds s.flags then s.setPc target else s

/-- A call on a condition (R212). -/
def State.callIf (s : State) (cond : Cond) (target : Word) : State := if cond.holds s.flags then s.callTo target else s

/-- A return on a condition (R222). -/
def State.returnIf (s : State) (cond : Cond) : State := if cond.holds s.flags then s.popPc else s

/-- JMP a16 (R201). -/
def execJmp (a16 : Word) (s : State) : Result := .next (s.setPc a16)

/-- JNZ a16 (R203). -/
def execJnz (a16 : Word) (s : State) : Result := .next (s.jumpIf .nz a16)

/-- JZ a16 (R204). -/
def execJz (a16 : Word) (s : State) : Result := .next (s.jumpIf .z a16)

/-- JNC a16 (R205). -/
def execJnc (a16 : Word) (s : State) : Result := .next (s.jumpIf .nc a16)

/-- JC a16 (R206). -/
def execJc (a16 : Word) (s : State) : Result := .next (s.jumpIf .c a16)

/-- JPO a16 (R207). -/
def execJpo (a16 : Word) (s : State) : Result := .next (s.jumpIf .po a16)

/-- JPE a16 (R208). -/
def execJpe (a16 : Word) (s : State) : Result := .next (s.jumpIf .pe a16)

/-- JP a16 (R209). -/
def execJp (a16 : Word) (s : State) : Result := .next (s.jumpIf .p a16)

/-- JM a16 (R210). -/
def execJm (a16 : Word) (s : State) : Result := .next (s.jumpIf .m a16)

/-- CALL a16 (R211). -/
def execCall (a16 : Word) (s : State) : Result := .next (s.callTo a16)

/-- CNZ a16 (R213). -/
def execCnz (a16 : Word) (s : State) : Result := .next (s.callIf .nz a16)

/-- CZ a16 (R214). -/
def execCz (a16 : Word) (s : State) : Result := .next (s.callIf .z a16)

/-- CNC a16 (R215). -/
def execCnc (a16 : Word) (s : State) : Result := .next (s.callIf .nc a16)

/-- CC a16 (R216). -/
def execCc (a16 : Word) (s : State) : Result := .next (s.callIf .c a16)

/-- CPO a16 (R217). -/
def execCpo (a16 : Word) (s : State) : Result := .next (s.callIf .po a16)

/-- CPE a16 (R218). -/
def execCpe (a16 : Word) (s : State) : Result := .next (s.callIf .pe a16)

/-- CP a16 (R219). -/
def execCp (a16 : Word) (s : State) : Result := .next (s.callIf .p a16)

/-- CM a16 (R220). -/
def execCm (a16 : Word) (s : State) : Result := .next (s.callIf .m a16)

/-- RET (R221). -/
def execRet (s : State) : Result := .next s.popPc

/-- RNZ (R223). -/
def execRnz (s : State) : Result := .next (s.returnIf .nz)

/-- RZ (R224). -/
def execRz (s : State) : Result := .next (s.returnIf .z)

/-- RNC (R225). -/
def execRnc (s : State) : Result := .next (s.returnIf .nc)

/-- RC (R226). -/
def execRc (s : State) : Result := .next (s.returnIf .c)

/-- RPO (R227). -/
def execRpo (s : State) : Result := .next (s.returnIf .po)

/-- RPE (R228). -/
def execRpe (s : State) : Result := .next (s.returnIf .pe)

/-- RP (R229). -/
def execRp (s : State) : Result := .next (s.returnIf .p)

/-- RM (R230). -/
def execRm (s : State) : Result := .next (s.returnIf .m)

/-- RST n (R231): a call to 8 times n. -/
def execRst (n : Nat) (s : State) : Result := .next (s.callTo (restartAddress n))

/-- PCHL (R232). -/
def execPchl (s : State) : Result := .next (s.setPc s.hl)

end Sys2Proof.Machine
end

