-- ==== Sys2Proof/Machine/DataTransfer.lean ====
section
/-! DEFINITION. The data transfer instructions (40_data_transfer.md). None writes a flag (R120). In every family a meaning
begins with the whole instruction fetched and pc after its last byte (10_state.md R26; log 12). -/

namespace Sys2Proof.Machine

/-- A read of memory into a register. -/
def State.loadReg (s : State) (dst : Reg) (a : Word) : State :=
  let x := s.memRead a
  x.2.setReg dst x.1

/-- L from an address, then H from the next (40_data_transfer.md R129; 45_extended.md R277). -/
def State.loadHl (s : State) (a : Word) : State :=
  (s.loadReg .l a).loadReg .h (a + 1)

/-- L to an address, then H to the next (40_data_transfer.md R130; 45_extended.md R280). -/
def State.storeHl (s : State) (a : Word) : State :=
  (s.memWrite a s.regs.l).memWrite (a + 1) s.regs.h

/-- MOV r1,r2 (R121). -/
def execMovRR (dst src : Reg) (s : State) : Result := .next (s.setReg dst (s.reg src))

/-- MOV r,M (R122). -/
def execMovRM (dst : Reg) (s : State) : Result := .next (s.loadReg dst s.hl)

/-- MOV M,r (R123). -/
def execMovMR (src : Reg) (s : State) : Result := .next (s.memWrite s.hl (s.reg src))

/-- MVI r,d8 (R124). -/
def execMviR (dst : Reg) (d8 : Byte) (s : State) : Result := .next (s.setReg dst d8)

/-- MVI M,d8 (R125). -/
def execMviM (d8 : Byte) (s : State) : Result := .next (s.memWrite s.hl d8)

/-- LXI rp,d16 (R126). -/
def execLxi (rp : Pair) (d16 : Word) (s : State) : Result := .next (s.setPair rp d16)

/-- LDA a16 (R127). -/
def execLda (a16 : Word) (s : State) : Result := .next (s.loadReg .a a16)

/-- STA a16 (R128). -/
def execSta (a16 : Word) (s : State) : Result := .next (s.memWrite a16 s.regs.a)

/-- LHLD a16 (R129). -/
def execLhld (a16 : Word) (s : State) : Result := .next (s.loadHl a16)

/-- SHLD a16 (R130). -/
def execShld (a16 : Word) (s : State) : Result := .next (s.storeHl a16)

/-- LDAX rp (R131). -/
def execLdax (rp : IndexPair) (s : State) : Result := .next (s.loadReg .a (s.regs.index rp))

/-- STAX rp (R132). -/
def execStax (rp : IndexPair) (s : State) : Result := .next (s.memWrite (s.regs.index rp) s.regs.a)

/-- XCHG (R133). -/
def execXchg (s : State) : Result :=
  .next (s.setRegs { s.regs with h := s.regs.d, l := s.regs.e, d := s.regs.h, e := s.regs.l })

end Sys2Proof.Machine
end

