-- ==== Sys2Proof/Machine/Extended.lean ====
section
/-! DEFINITION. The extended instruction set (45_extended.md). A flag a rule does not name is left unchanged (R270). -/

namespace Sys2Proof.Machine

/-- ARHL (R271): bit 15 kept, every other bit one place right, CY the old bit 0. -/
def execArhl (s : State) : Result :=
  let v := s.hl
  .next ((s.setRegs (s.regs.setHl (BitVec.ofBool (v.getLsbD 15) ++ v.extractLsb' 1 15))).setFlags
    { s.flags with cy := v.getLsbD 0 })

/-- DSUB (R272): P and AC open. -/
def execDsub (s : State) : Result :=
  let p := s.drawBit
  let ac := p.2.drawBit
  .next ((ac.2.setRegs (s.regs.setHl (s.regs.hl - s.regs.bc))).setFlags (dsubFlags s.regs.hl s.regs.bc p.1 ac.1))

/-- JNUI a16 (R273). -/
def execJnui (a16 : Word) (s : State) : Result := .next (s.jumpIf .nui a16)

/-- JUI a16 (R274). -/
def execJui (a16 : Word) (s : State) : Result := .next (s.jumpIf .ui a16)

/-- LDHI d8 (R275): the byte is zero-extended. -/
def execLdhi (d8 : Byte) (s : State) : Result := .next (s.setRegs (s.regs.setDe (s.hl + d8.setWidth 16)))

/-- LDSI d8 (R276): the byte is zero-extended. -/
def execLdsi (d8 : Byte) (s : State) : Result := .next (s.setRegs (s.regs.setDe (s.sp + d8.setWidth 16)))

/-- LHLX (R277). -/
def execLhlx (s : State) : Result := .next (s.loadHl s.regs.de)

/-- RDEL (R278): DE and CY rotate left as 17 bits; V when the sign of DE changes. -/
def execRdel (s : State) : Result :=
  let v := s.regs.de
  .next ((s.setRegs (s.regs.setDe (v.extractLsb' 0 15 ++ BitVec.ofBool s.flags.cy))).setFlags
    { s.flags with cy := v.getLsbD 15, v := v.getLsbD 15 ^^ v.getLsbD 14 })

/-- RSTV (R279): a call to 0040H if V is set. -/
def execRstv (s : State) : Result := .next (if s.flags.v then s.callTo 0x0040#16 else s)

/-- SHLX (R280). -/
def execShlx (s : State) : Result := .next (s.storeHl s.regs.de)

end Sys2Proof.Machine
end

