-- ==== Sys2Proof/Machine/Logical.lean ====
section
/-! DEFINITION. The logical, compare, rotate and flag instructions (42_logical.md). -/

namespace Sys2Proof.Machine

/-- A and the flags after a logical operation with result `r`: CY cleared, AC as given, V and UI open (R170). -/
def State.setLogic (s : State) (r : Byte) (ac : Bool) : State :=
  let v := s.drawBit
  let ui := v.2.drawBit
  (ui.2.setRegs { s.regs with a := r }).setFlags (logicFlags r ac v.1 ui.1)

/-- AND with a byte: AC set (R171). -/
def State.and (s : State) (b : Byte) : State := s.setLogic (s.regs.a &&& b) true

/-- Exclusive OR with a byte: AC cleared (R174). -/
def State.xor (s : State) (b : Byte) : State := s.setLogic (s.regs.a ^^^ b) false

/-- OR with a byte: AC cleared (R177). -/
def State.or (s : State) (b : Byte) : State := s.setLogic (s.regs.a ||| b) false

/-- The compare with a byte: the flags of a subtraction, A kept (R180). -/
def State.compare (s : State) (b : Byte) : State := s.setFlags (sub8 s.regs.a b false).flags

/-- CY is written, V and UI are open, the other flags kept (R183, R188, R189). -/
def State.setCarryOnly (s : State) (cy : Bool) : State :=
  let v := s.drawBit
  let ui := v.2.drawBit
  ui.2.setFlags { s.flags with cy := cy, v := v.1, ui := ui.1 }

/-- A rotate's result and the bit it moves out (R183). -/
def State.setRotate (s : State) (r : Byte) (out : Bool) : State :=
  (s.setCarryOnly out).setRegs { s.regs with a := r }

/-- ANA r (R171). -/
def execAnaR (src : Reg) (s : State) : Result := .next (s.and (s.reg src))

/-- ANA M (R172). -/
def execAnaM (s : State) : Result := .next (s.withM State.and)

/-- ANI d8 (R173). -/
def execAni (d8 : Byte) (s : State) : Result := .next (s.and d8)

/-- XRA r (R174). -/
def execXraR (src : Reg) (s : State) : Result := .next (s.xor (s.reg src))

/-- XRA M (R175). -/
def execXraM (s : State) : Result := .next (s.withM State.xor)

/-- XRI d8 (R176). -/
def execXri (d8 : Byte) (s : State) : Result := .next (s.xor d8)

/-- ORA r (R177). -/
def execOraR (src : Reg) (s : State) : Result := .next (s.or (s.reg src))

/-- ORA M (R178). -/
def execOraM (s : State) : Result := .next (s.withM State.or)

/-- ORI d8 (R179). -/
def execOri (d8 : Byte) (s : State) : Result := .next (s.or d8)

/-- CMP r (R180). -/
def execCmpR (src : Reg) (s : State) : Result := .next (s.compare (s.reg src))

/-- CMP M (R181). -/
def execCmpM (s : State) : Result := .next (s.withM State.compare)

/-- CPI d8 (R182). -/
def execCpi (d8 : Byte) (s : State) : Result := .next (s.compare d8)

/-- RLC (R183): `A <- {A[6:0], A[7]}`. -/
def execRlc (s : State) : Result :=
  let c := s.regs.a.getLsbD 7
  .next (s.setRotate (s.regs.a.extractLsb' 0 7 ++ BitVec.ofBool c) c)

/-- RRC (R184): `A <- {A[0], A[7:1]}`. -/
def execRrc (s : State) : Result :=
  let c := s.regs.a.getLsbD 0
  .next (s.setRotate (BitVec.ofBool c ++ s.regs.a.extractLsb' 1 7) c)

/-- RAL (R185): `A <- {A[6:0], CY}`. -/
def execRal (s : State) : Result :=
  .next (s.setRotate (s.regs.a.extractLsb' 0 7 ++ BitVec.ofBool s.flags.cy) (s.regs.a.getLsbD 7))

/-- RAR (R186): `A <- {CY, A[7:1]}`. -/
def execRar (s : State) : Result :=
  .next (s.setRotate (BitVec.ofBool s.flags.cy ++ s.regs.a.extractLsb' 1 7) (s.regs.a.getLsbD 0))

/-- CMA (R187): no flag is written. -/
def execCma (s : State) : Result := .next (s.setRegs { s.regs with a := ~~~s.regs.a })

/-- CMC (R188). -/
def execCmc (s : State) : Result := .next (s.setCarryOnly (!s.flags.cy))

/-- STC (R189). -/
def execStc (s : State) : Result := .next (s.setCarryOnly true)

end Sys2Proof.Machine
end

