-- ==== Sys2Proof/Machine/StackIoControl.lean ====
section
/-! DEFINITION. The stack, input/output and machine control instructions (44_stack_io_control.md). Only POP PSW writes
flags (R252); every one may be executed at any time, for there is one mode (60_exceptions.md R326). -/

namespace Sys2Proof.Machine

/-- PUSH rp (R240). -/
def execPushRp (rp : StackPair) (s : State) : Result := .next (s.push16 (s.regs.stackPair rp))

/-- PUSH PSW (R241): A is the high byte, the flag byte the low one. -/
def execPushPsw (s : State) : Result := .next (s.push16 (ofBytes s.regs.a s.flags.toByte))

/-- POP rp (R242). -/
def execPopRp (rp : StackPair) (s : State) : Result :=
  let x := s.pop16
  .next (x.2.setRegs (x.2.regs.setStackPair rp x.1))

/-- POP PSW (R243). -/
def execPopPsw (s : State) : Result :=
  let x := s.pop16
  .next ((x.2.setRegs { x.2.regs with a := hiByte x.1 }).setFlags (Flags.ofByte (loByte x.1)))

/-- XTHL (R244): two reads, then the write of the high byte, then of the low; SP stays. -/
def execXthl (s : State) : Result :=
  let lo := s.memRead s.sp
  let hi := lo.2.memRead (s.sp + 1)
  let t := (hi.2.memWrite (s.sp + 1) s.regs.h).memWrite s.sp s.regs.l
  .next (t.setRegs { s.regs with h := hi.1, l := lo.1 })

/-- SPHL (R245). -/
def execSphl (s : State) : Result := .next (s.setSp s.hl)

/-- IN port (R246). -/
def execInp (port : Byte) (s : State) : Result :=
  let x := s.ioRead port
  .next (x.2.setReg .a x.1)

/-- OUT port (R247). -/
def execOut (port : Byte) (s : State) : Result := .next (s.ioWrite port s.regs.a)

/-- EI (R248). -/
def execEi (s : State) : Result := .next (s.setCtl { s.ctl with inte := true, eiPend := true })

/-- DI (R249). -/
def execDi (s : State) : Result := .next (s.setCtl { s.ctl with inte := false })

/-- HLT (R250): pc is already after the instruction. -/
def execHlt (s : State) : Result := .next (s.setCtl { s.ctl with halted := true })

/-- NOP (R251). -/
def execNop (s : State) : Result := .next s

/-- RIM (R255): the first one after a TRAP reports the saved interrupt enable (10_state.md R45). -/
def execRim (s : State) : Result :=
  let c := s.ctl
  let e := s.env
  let ie := if c.trapArmed then c.trapSaved else c.inte
  let t := s.setCtl { c with trapArmed := false }
  .next (t.setReg .a (rimByte e.sid c.r75 e.rst65 e.rst55 ie c.m75 c.m65 c.m55))

/-- SIM (R256): A is not changed. -/
def execSim (s : State) : Result := .next (s.setCtl (s.ctl.afterSim s.regs.a))

end Sys2Proof.Machine
end

