-- ==== Sys2Proof/Machine/Step.lean ====
section
/-! DEFINITION. One step of the machine: one boundary, and what it leads to (60_exceptions.md R311). -/

namespace Sys2Proof.Machine

/-- What an activity does, until it is over or cut: the entry of an interrupt, or one instruction, fetched and executed
(60_exceptions.md R311). -/
def State.perform (s : State) : Activity → Result
  | .entry q => s.enter q
  | .instruction => exec s.fetchInstr.1 s.fetchInstr.2

/-- One step: an interrupt is taken, or one instruction executes, or one of the two goes on after a HOLD, or the machine stays
halted, held or in reset (60_exceptions.md R311, R328; 70_reset_and_hazards.md R350). -/
def step (s : State) : Host.Outcome State Fault Refusal :=
  match s.boundary with
  | .done t => .next t
  | .run a t => settle a t (t.perform a)

/-- The state with an instruction stored where the next step fetches it (log 11). -/
def State.withFetchWord (s : State) (nbits w : Nat) : State := s.placeInstr nbits w

end Sys2Proof.Machine
end

