-- ==== Sys2Proof/Machine/Status.lean ====
section
/-! DEFINITION. The pins the processor drives, as Table 2-9 gives them (20_memory.md R73) and as SOD, the address bus, HLDA
and RO follow (10_state.md R40; 20_memory.md R61; 60_exceptions.md R328; 70_reset_and_hazards.md R350). They are outputs for
external logic: no rule of the model reads them. -/

namespace Sys2Proof.Machine

/-- The level of an output pin. -/
inductive Level
  | low | high | dontCare | highImpedance
deriving DecidableEq, Repr

/-- The status outputs. -/
structure StatusPins where
  s0 : Level
  s1 : Level
  ioM : Level
deriving DecidableEq, Repr

/-- The status of the six transfer cycles (20_memory.md R73). -/
def BusCycle.status : BusCycle → StatusPins
  | .memoryWrite _ _ => { s0 := .high, s1 := .low, ioM := .low }
  | .memoryRead _ _ => { s0 := .low, s1 := .high, ioM := .low }
  | .ioWrite _ _ => { s0 := .high, s1 := .low, ioM := .high }
  | .ioRead _ _ => { s0 := .low, s1 := .high, ioM := .high }
  | .opcodeFetch _ _ => { s0 := .high, s1 := .high, ioM := .low }
  | .interruptAcknowledge _ => { s0 := .high, s1 := .high, ioM := .high }

/-- The address bus in a cycle: an I/O cycle carries the port number on both halves (20_memory.md R61); an acknowledge
cycle's address the spec does not give. -/
def BusCycle.address : BusCycle → Option Word
  | .memoryWrite a _ => some a
  | .memoryRead a _ => some a
  | .opcodeFetch a _ => some a
  | .ioWrite p _ => some (p ++ p)
  | .ioRead p _ => some (p ++ p)
  | .interruptAcknowledge _ => none

/-- The status while no transfer cycle is made, Reset before Hold before Halt; `none` while the machine runs
(20_memory.md R73; 90_conflicts.md C4). -/
def State.restingStatus (s : State) : Option StatusPins :=
  if s.env.resetIn then some { s0 := .dontCare, s1 := .dontCare, ioM := .highImpedance }
  else if s.ctl.hlda then some { s0 := .dontCare, s1 := .dontCare, ioM := .highImpedance }
  else if s.ctl.halted then some { s0 := .low, s1 := .low, ioM := .highImpedance }
  else none

/-- The SOD pin is the SOD latch (10_state.md R40). -/
def State.sodPin (s : State) : Level := if s.ctl.sod then .high else .low

/-- The HLDA output is active: the buses are available to another master (60_exceptions.md R328). -/
def State.holdAcknowledge (s : State) : Bool := s.ctl.hlda

/-- The RO output is active: the processor is being reset, for as long as RESET IN is asserted (70_reset_and_hazards.md R350).
Which level that is the spec does not say. -/
def State.resetOut (s : State) : Bool := s.env.resetIn

end Sys2Proof.Machine
end

