-- ==== Sys2Proof/Safety.lean ====
section
/-! DEFINITION. The terms claims are made in: what a quiet instruction is, which addresses hold a byte, what a state
reached at a boundary satisfies, when the next step executes an instruction; what a sum, a difference and a result's flags
are as numbers; what a read sees, what a store and a push leave; the tables of the conditional instructions and of the
flags each instruction writes. No definition of the machine uses one of these. -/

namespace Sys2Proof.Machine

/-- Nobody takes the bus and RESET IN is not asserted while the instruction runs, and it has not been stopped before
(20_memory.md R75: the default `BusMasters`, none; 70_reset_and_hazards.md R350). -/
abbrev State.Quiet (s : State) : Prop := s.env.cycles = [] ∧ s.abandoned = false ∧ s.suspended = none

/-- The address holds a byte: RAM or ROM (20_memory.md R71). -/
abbrev State.Populated (s : State) (a : Word) : Prop := s.kindAt a = .ram ∨ s.kindAt a = .rom

/-- The address is RAM (20_memory.md R71). -/
abbrev State.Writable (s : State) (a : Word) : Prop := s.kindAt a = .ram

/-- Every address outside the list reads as before. -/
def SameMemoryBut (stored : List Word) (s t : State) : Prop := ∀ a, a ∉ stored → t.peek a = s.peek a

/-- All but memory and the bus history is unchanged. -/
def OnlyMemoryAndBus (s t : State) : Prop := t = (s.setMem t.mem).setBus t.bus

/-- What holds after every step: memory is in canonical form, no step is left cut, EIPEND stands only between an EI and the
next instruction (10_state.md R44), HLDA only while HOLD is requested (R46), and an activity waits part-way only while HLDA
stands, without EIPEND and HALTED (60_exceptions.md R328). -/
structure State.Inv (s : State) : Prop where
  memory : s.mem.wf = true
  whole : s.abandoned = false
  eiPend_inte : s.ctl.eiPend = true → s.ctl.inte = true
  eiPend_running : s.ctl.eiPend = true → s.ctl.halted = false
  hlda_hold : s.ctl.hlda = true → s.env.hold = true
  suspended_ctl : s.suspended ≠ none → s.ctl.hlda = true ∧ s.ctl.eiPend = false ∧ s.ctl.halted = false

/-- The next step begins an instruction: RESET IN and HOLD are inactive at the boundary, no request is taken, the machine is
not halted (60_exceptions.md R311), and nothing waits part-way. -/
abbrev State.Executes (s : State) : Prop :=
  s.sample.env.resetIn = false ∧ s.sample.env.hold = false ∧ s.sample.releaseBus.request = none ∧ s.ctl.halted = false ∧
  s.suspended = none

/-- The state in which the instruction of the next step is fetched. -/
def State.atFetch (s : State) : State := s.sample.releaseBus.clearEiPend

/-! ## Sums, differences and flags as numbers -/

/-- The number of 1 bits in a byte. -/
def ones (r : Byte) : Nat := (List.range 8).countP r.getLsbD

/-- S, Z and P tell of the byte `r` (10_state.md R29, R34). -/
def ResultFlags (r : Byte) (f : Flags) : Prop :=
  (f.s = true ↔ 128 ≤ r.toNat) ∧ (f.z = true ↔ r.toNat = 0) ∧ (f.p = true ↔ ones r % 2 = 0)

/-- `r` is `a + b + c` modulo 256; of the flags, AC tells of the carry out of bit 3, V that the signed sum does not fit in
a byte, UI that it is negative, S, Z, P of the result (10_state.md R29 to R32). CY is left to `SumOf`. -/
def SumBut (a b : Byte) (c : Nat) (r : Byte) (f : Flags) : Prop :=
  r.toNat = (a.toNat + b.toNat + c) % 256 ∧ ResultFlags r f ∧ (f.ac = true ↔ 16 ≤ a.toNat % 16 + b.toNat % 16 + c) ∧
  (f.v = true ↔ a.toInt + b.toInt + c < -128 ∨ 127 < a.toInt + b.toInt + c) ∧ (f.ui = true ↔ a.toInt + b.toInt + c < 0)

/-- As `SumBut`, and CY tells of the carry out of bit 7. -/
def SumOf (a b : Byte) (c : Nat) (r : Byte) (f : Flags) : Prop :=
  SumBut a b c r f ∧ (f.cy = true ↔ 256 ≤ a.toNat + b.toNat + c)

/-- `r` is `a - b - c` modulo 256; of the flags, AC tells that the low digit of `a` needed no borrow, V that the signed
difference does not fit in a byte, UI that it is negative, S, Z, P of the result (10_state.md R29 to R33). CY is left to
`DifferenceOf`. -/
def DifferenceBut (a b : Byte) (c : Nat) (r : Byte) (f : Flags) : Prop :=
  (r.toNat : Int) = ((a.toNat : Int) - b.toNat - c) % 256 ∧ ResultFlags r f ∧
  (f.ac = true ↔ b.toNat % 16 + c ≤ a.toNat % 16) ∧
  (f.v = true ↔ a.toInt - b.toInt - c < -128 ∨ 127 < a.toInt - b.toInt - c) ∧ (f.ui = true ↔ a.toInt - b.toInt - c < 0)

/-- As `DifferenceBut`, and CY tells of the borrow. -/
def DifferenceOf (a b : Byte) (c : Nat) (r : Byte) (f : Flags) : Prop :=
  DifferenceBut a b c r f ∧ (f.cy = true ↔ a.toNat < b.toNat + c)

/-- The two decimal digits of a packed-BCD byte are digits. -/
def IsBcd (b : Byte) : Prop := b.toNat / 16 ≤ 9 ∧ b.toNat % 16 ≤ 9

/-- The number a packed-BCD byte stands for. -/
def bcdValue (b : Byte) : Nat := 10 * (b.toNat / 16) + b.toNat % 16

/-! ## What is written -/

/-- The register `dst` holds `v`, the six others what they held. -/
def RegWritten (s t : State) (dst : Reg) (v : Byte) : Prop := t.reg dst = v ∧ ∀ q, q ≠ dst → t.reg q = s.reg q

/-- The pair `rp` holds `v`, the three others what they held, and so does A. -/
def PairWritten (s t : State) (rp : Pair) (v : Word) : Prop :=
  t.pair rp = v ∧ (∀ q, q ≠ rp → t.pair q = s.pair q) ∧ t.regs.a = s.regs.a

/-- All but the data registers is unchanged. -/
def OnlyRegs (s t : State) : Prop := t = s.setRegs t.regs

/-- All but the data registers, the flags and the count of open values is unchanged. -/
def OnlyRegsAndFlags (s t : State) : Prop := t = ((s.setRegs t.regs).setFlags t.flags).setDraws t.draws

/-- A store of `v` at `a`: RAM holds it; anything else keeps what it held (20_memory.md R71). -/
def ByteStored (s t : State) (a : Word) (v : Byte) : Prop :=
  (s.Writable a → t.peek a = v) ∧ (¬ s.Writable a → t.peek a = s.peek a)

/-- `Push16(v)` took `s` to `t`, as far as memory, SP and the bus go (00_scope.md R9). -/
def Pushed (s t : State) (v : Word) : Prop :=
  ByteStored s t (s.sp - 1) (hiByte v) ∧ ByteStored s t (s.sp - 2) (loByte v) ∧
  SameMemoryBut [s.sp - 1, s.sp - 2] s t ∧ t.sp = s.sp - 2 ∧
  t.bus = .memoryWrite (s.sp - 2) (loByte v) :: .memoryWrite (s.sp - 1) (hiByte v) :: s.bus

/-- All but memory, SP, pc and the bus history is unchanged. -/
def OnlyStackAndPc (s t : State) : Prop := t = (((s.setMem t.mem).setSp t.sp).setPc t.pc).setBus t.bus

/-! ## What a read sees, where nobody disturbs it (20_memory.md R62, R71) -/

/-- The byte a read of memory gives: what RAM or ROM holds, what a device presents, else an open value. -/
def State.seen (s : State) (a : Word) : Byte :=
  match s.kindAt a with
  | .ram => s.peek a
  | .rom => s.peek a
  | .device => (s.env.devices.lookup a).getD (Config.freeByte s.draws)
  | .absent => Config.freeByte s.draws

/-- How many open values that read takes. -/
def State.seenDraws (s : State) (a : Word) : Nat :=
  match s.kindAt a with
  | .ram => 0
  | .rom => 0
  | .device => if (s.env.devices.lookup a).isSome then 0 else 1
  | .absent => 1

/-- The state after that read: the cycle is in the history and an open value, if any, is spent. -/
def State.afterRead (s : State) (a : Word) : State :=
  (s.setDraws (s.draws + s.seenDraws a)).setBus (.memoryRead a (s.seen a) :: s.bus)

/-- The state after the two reads of a 16-bit quantity at `a`, the low-order byte first. -/
def State.afterRead16 (s : State) (a : Word) : State := (s.afterRead a).afterRead (a + 1)

/-- The 16-bit quantity those reads give (20_memory.md R63). -/
def State.seen16 (s : State) (a : Word) : Word := ofBytes ((s.afterRead a).seen (a + 1)) (s.seen a)

/-- The state after `Pop16()`, whose result is `s.seen16 s.sp` (00_scope.md R9). -/
def State.afterPop (s : State) : State := (s.afterRead16 s.sp).setSp (s.sp + 2)

/-- The machine cycles in which the instruction at pc is fetched, the newest first: the opcode fetch, and a memory read for
each further byte, but for the third byte of a conditional jump or call that is not taken (20_memory.md R68). -/
def State.fetchCycles (s : State) : List BusCycle :=
  let opcode := s.peek s.pc
  let first := BusCycle.opcodeFetch s.pc opcode
  let second := BusCycle.memoryRead (s.pc + 1) (s.peek (s.pc + 1))
  let third := BusCycle.memoryRead (s.pc + 2) (s.peek (s.pc + 2))
  match opcodeLength opcode with
  | 1 => [first]
  | 2 => [second, first]
  | _ => match thirdByteCond opcode with
         | none => [third, second, first]
         | some cond => if cond.holds s.flags then [third, second, first] else [second, first]

/-- An I/O-read machine cycle (20_memory.md R61, R73). -/
def BusCycle.isIoRead : BusCycle → Bool
  | .ioRead _ _ => true
  | .opcodeFetch _ _ | .memoryRead _ _ | .memoryWrite _ _ | .ioWrite _ _ | .interruptAcknowledge _ => false

/-- An I/O-write machine cycle (20_memory.md R61, R73). -/
def BusCycle.isIoWrite : BusCycle → Bool
  | .ioWrite _ _ => true
  | .opcodeFetch _ _ | .memoryRead _ _ | .memoryWrite _ _ | .ioRead _ _ | .interruptAcknowledge _ => false

/-! ## Tables of the claims -/

/-- The ten conditional jumps: opcode, constructor, condition (43_branch.md R203 to R210; 45_extended.md R273, R274). -/
def conditionalJumps : List (Byte × (Word → Instr) × (Flags → Bool)) :=
  [(0xC2#8, .jnz, fun f => !f.z), (0xCA#8, .jz, fun f => f.z), (0xD2#8, .jnc, fun f => !f.cy), (0xDA#8, .jc, fun f => f.cy),
   (0xE2#8, .jpo, fun f => !f.p), (0xEA#8, .jpe, fun f => f.p), (0xF2#8, .jp, fun f => !f.s), (0xFA#8, .jm, fun f => f.s),
   (0xDD#8, .jnui, fun f => !f.ui), (0xFD#8, .jui, fun f => f.ui)]

/-- The eight conditional calls (43_branch.md R213 to R220). -/
def conditionalCalls : List (Byte × (Word → Instr) × (Flags → Bool)) :=
  [(0xC4#8, .cnz, fun f => !f.z), (0xCC#8, .cz, fun f => f.z), (0xD4#8, .cnc, fun f => !f.cy), (0xDC#8, .cc, fun f => f.cy),
   (0xE4#8, .cpo, fun f => !f.p), (0xEC#8, .cpe, fun f => f.p), (0xF4#8, .cp, fun f => !f.s), (0xFC#8, .cm, fun f => f.s)]

/-- The eight conditional returns (43_branch.md R223 to R230). -/
def conditionalReturns : List (Byte × Instr × (Flags → Bool)) :=
  [(0xC0#8, .rnz, fun f => !f.z), (0xC8#8, .rz, fun f => f.z), (0xD0#8, .rnc, fun f => !f.cy), (0xD8#8, .rc, fun f => f.cy),
   (0xE0#8, .rpo, fun f => !f.p), (0xE8#8, .rpe, fun f => f.p), (0xF0#8, .rp, fun f => !f.s), (0xF8#8, .rm, fun f => f.s)]

/-- What an instruction does to one flag, in the signs of the table of 10_state.md R35: `w`, `0`, `1`, `?`, `-`. -/
inductive FlagEffect
  | written | zero | one | unspecified | kept
deriving DecidableEq, Repr

/-- The effect allows the flag to go from `old` to `new`. -/
def FlagEffect.Allows (e : FlagEffect) (old new : Bool) : Prop :=
  match e with
  | .written => True
  | .zero => new = false
  | .one => new = true
  | .unspecified => True
  | .kept => new = old

/-- A row of that table. -/
structure FlagRow where
  s : FlagEffect
  z : FlagEffect
  ac : FlagEffect
  p : FlagEffect
  cy : FlagEffect
  v : FlagEffect
  ui : FlagEffect
deriving DecidableEq, Repr

/-- The row "every other instruction". -/
def FlagRow.unchanged : FlagRow := ⟨.kept, .kept, .kept, .kept, .kept, .kept, .kept⟩

/-- The rows "ADD, ADC, ..." and "POP PSW". -/
def FlagRow.all : FlagRow := ⟨.written, .written, .written, .written, .written, .written, .written⟩

/-- The row "INR, DCR". -/
def FlagRow.step : FlagRow := { FlagRow.all with cy := .kept }

/-- The row "INX, DCX". -/
def FlagRow.stepPair : FlagRow := { FlagRow.unchanged with ui := .written }

/-- The rows "ANA, ANI" and "XRA, XRI, ORA, ORI", with the constant that AC takes. -/
def FlagRow.logical (ac : FlagEffect) : FlagRow := ⟨.written, .written, ac, .written, .zero, .unspecified, .unspecified⟩

/-- The rows "RLC, RRC, RAL, RAR", "CMC", "STC", with the effect on CY. -/
def FlagRow.carry (cy : FlagEffect) : FlagRow := { FlagRow.unchanged with cy := cy, v := .unspecified, ui := .unspecified }

/-- The row of an instruction (10_state.md R35). -/
def flagRowOf : Instr → FlagRow
  | .addR _ | .addM | .adi _ | .adcR _ | .adcM | .aci _ | .subR _ | .subM | .sui _ | .sbbR _ | .sbbM | .sbi _
  | .cmpR _ | .cmpM | .cpi _ | .popPsw => .all
  | .inrR _ | .inrM | .dcrR _ | .dcrM => .step
  | .inx _ | .dcx _ => .stepPair
  | .dad _ => { FlagRow.unchanged with cy := .written, v := .written, ui := .unspecified }
  | .daa => { FlagRow.all with v := .unspecified, ui := .unspecified }
  | .anaR _ | .anaM | .ani _ => .logical .one
  | .xraR _ | .xraM | .xri _ | .oraR _ | .oraM | .ori _ => .logical .zero
  | .rlc | .rrc | .ral | .rar | .cmc => .carry .written
  | .stc => .carry .one
  | .dsub => { FlagRow.all with ac := .unspecified, p := .unspecified }
  | .arhl => { FlagRow.unchanged with cy := .written }
  | .rdel => { FlagRow.unchanged with cy := .written, v := .written }
  | _ => .unchanged

/-- The instructions that write SP: LXI SP, SPHL, INX SP, DCX SP, every push and every pop (10_state.md R24). -/
def writesSp : Instr → Bool
  | .lxi .sp _ | .sphl | .inx .sp | .dcx .sp | .pushRp _ | .pushPsw | .popRp _ | .popPsw
  | .call _ | .cnz _ | .cz _ | .cnc _ | .cc _ | .cpo _ | .cpe _ | .cp _ | .cm _
  | .ret | .rnz | .rz | .rnc | .rc | .rpo | .rpe | .rp | .rm | .rst _ | .rstv => true
  | _ => false

/-- An instruction executed `n` times in a row, on the state its meaning leaves each time. -/
def execTimes (i : Instr) : Nat → State → Result
  | 0, s => .next s
  | n + 1, s => match exec i s with
    | .next t => execTimes i n t
    | .fault f => .fault f
    | .refused r => .refused r

end Sys2Proof.Machine
end

