-- ==== Sys2Proof/Certificates/Slice0/Obligations.lean ====
section
/-! DEFINITION. The statements for the provers. "Fetched" below means: the whole instruction has been fetched and pc stands
after its last byte, which is where `exec` begins (10_state.md R26); `Obligations.StepRunsDecodedInstruction` ties that to a
step. "Quiet" means that nobody takes the bus and RESET IN is not asserted while the instruction runs, and that it runs from its
beginning, not from where a HOLD stopped it. -/

open Sys2Proof Sys2Proof.Machine

/-! ## Encoding -/

/-- What is encoded is decoded, whatever bytes follow. -/
def Obligations.DecodeOfEncode : Prop :=
  ∀ (i : Instr) (rest : List Byte), i.wellFormed = true → decode (encode i ++ rest) = .ok (i, rest)

/-- Every instruction read from bytes is well formed, and its encoding is the bytes it was read from. -/
def Obligations.EncodeOfDecode : Prop :=
  ∀ (bytes rest : List Byte) (i : Instr), decode bytes = .ok (i, rest) → i.wellFormed = true ∧ encode i ++ rest = bytes

/-- R100: every first byte is an instruction, whatever follows, so that decoding fails only for want of bytes; the seven
moves of a register to itself and NOP do nothing by their own meaning. -/
def Obligations.EveryByteSequenceDecodes : Prop :=
  (∀ b0 b1 b2 : Byte, ∃ i, i.wellFormed = true ∧ decode [b0, b1, b2] = .ok (i, [b0, b1, b2].drop (encode i).length)) ∧
  (∀ bytes e, decode bytes = .error e →
    (bytes = [] ∧ e = .noOpcode) ∨
    ∃ b rest, bytes = b :: rest ∧ e = .missingOperand b ∧ bytes.length < opcodeLength b) ∧
  (∀ (r : Reg) (s : State), exec (.movRR r r) s = .next s) ∧ (∀ s : State, exec .nop s = .next s)

/-- A sanity statement: words written out from the encoding table decode to the instruction they stand for. -/
def Obligations.WordsDecode : Prop :=
  decodeTableWord 8 0x78 = some (.movRR .a .b) ∧ decodeTableWord 8 0x76 = some .hlt ∧
  decodeTableWord 16 0x123E = some (.mviR .a 0x12#8) ∧ decodeTableWord 24 0x205021 = some (.lxi .hl 0x2050#16) ∧
  decodeTableWord 8 0x08 = some .dsub ∧ decodeTableWord 24 0x1234DD = some (.jnui 0x1234#16) ∧
  decodeTableWord 8 0xEF = some (.rst 5) ∧ decodeTableWord 8 0xF1 = some .popPsw

/-! ## Data transfer -/

/-- R121, R124: MOV r1,r2 and MVI r,d8 write their destination register and nothing else. -/
def Obligations.RegisterMoves : Prop :=
  ∀ (s : State) (dst src : Reg) (v : Byte),
    (encode (.movRR dst src) = [0b01#2 ++ dst.code ++ src.code] ∧
      ∃ t, exec (.movRR dst src) s = .next t ∧ RegWritten s t dst (s.reg src) ∧ OnlyRegs s t) ∧
    (encode (.mviR dst v) = [0b00#2 ++ dst.code ++ 0b110#3, v] ∧
      ∃ t, exec (.mviR dst v) s = .next t ∧ RegWritten s t dst v ∧ OnlyRegs s t)

/-- R126, R133, R245: LXI writes a pair, SP among them; XCHG exchanges DE and HL; SPHL copies HL to SP. -/
def Obligations.PairMoves : Prop :=
  ∀ (s : State) (rp : Pair) (w : Word),
    (encode (.lxi rp w) = [0b00#2 ++ rp.code ++ 0b0001#4, loByte w, hiByte w] ∧
      ∃ t, exec (.lxi rp w) s = .next t ∧ PairWritten s t rp w ∧ t = (s.setRegs t.regs).setSp t.sp) ∧
    (encode .xchg = [0xEB#8] ∧
      ∃ t, exec .xchg s = .next t ∧ t.pair .hl = s.pair .de ∧ t.pair .de = s.pair .hl ∧ t.pair .bc = s.pair .bc ∧
        t.regs.a = s.regs.a ∧ OnlyRegs s t) ∧
    (encode .sphl = [0xF9#8] ∧ exec .sphl s = .next (s.setSp (s.pair .hl)))

/-- R122, R127, R131: MOV r,M, LDA and LDAX read one byte, at HL (its old value), at the address given, at BC or DE, into
their register, in one memory-read cycle. -/
def Obligations.ByteLoads : Prop :=
  ∀ (s : State) (dst : Reg) (w : Word), s.Quiet →
    (encode (.movRM dst) = [0b01#2 ++ dst.code ++ 0b110#3] ∧
      ∃ t, exec (.movRM dst) s = .next t ∧ RegWritten s t dst (s.seen (s.pair .hl)) ∧
        OnlyRegs (s.afterRead (s.pair .hl)) t) ∧
    (encode (.lda w) = [0x3A#8, loByte w, hiByte w] ∧
      ∃ t, exec (.lda w) s = .next t ∧ RegWritten s t .a (s.seen w) ∧ OnlyRegs (s.afterRead w) t) ∧
    (encode (.ldax .bc) = [0x0A#8] ∧
      ∃ t, exec (.ldax .bc) s = .next t ∧ RegWritten s t .a (s.seen (s.pair .bc)) ∧
        OnlyRegs (s.afterRead (s.pair .bc)) t) ∧
    (encode (.ldax .de) = [0x1A#8] ∧
      ∃ t, exec (.ldax .de) s = .next t ∧ RegWritten s t .a (s.seen (s.pair .de)) ∧
        OnlyRegs (s.afterRead (s.pair .de)) t)

/-- R129, R277: LHLD and LHLX read L at the address and then H at the next, modulo 65,536. -/
def Obligations.WordLoads : Prop :=
  ∀ (s : State) (w : Word), s.Quiet →
    (encode (.lhld w) = [0x2A#8, loByte w, hiByte w] ∧
      ∃ t, exec (.lhld w) s = .next t ∧ PairWritten s t .hl (s.seen16 w) ∧ OnlyRegs (s.afterRead16 w) t) ∧
    (encode .lhlx = [0xED#8] ∧
      ∃ t, exec .lhlx s = .next t ∧ PairWritten s t .hl (s.seen16 (s.pair .de)) ∧ OnlyRegs (s.afterRead16 (s.pair .de)) t)

/-- R123, R125, R128, R132: MOV M,r, MVI M, STA and STAX store one byte, in one memory-write cycle, and change nothing else;
where no RAM stands behind the address, no byte of memory changes. -/
def Obligations.ByteStores : Prop :=
  ∀ (s : State) (src : Reg) (v : Byte) (w : Word), s.Quiet →
    let stores (i : Instr) (a : Word) (x : Byte) : Prop :=
      ∃ t, exec i s = .next t ∧ ByteStored s t a x ∧ SameMemoryBut [a] s t ∧ t.bus = .memoryWrite a x :: s.bus ∧
        OnlyMemoryAndBus s t
    (encode (.movMR src) = [0b01110#5 ++ src.code] ∧ stores (.movMR src) (s.pair .hl) (s.reg src)) ∧
    (encode (.mviM v) = [0x36#8, v] ∧ stores (.mviM v) (s.pair .hl) v) ∧
    (encode (.sta w) = [0x32#8, loByte w, hiByte w] ∧ stores (.sta w) w s.regs.a) ∧
    (encode (.stax .bc) = [0x02#8] ∧ stores (.stax .bc) (s.pair .bc) s.regs.a) ∧
    (encode (.stax .de) = [0x12#8] ∧ stores (.stax .de) (s.pair .de) s.regs.a)

/-- R130, R280: SHLD and SHLX store L at the address and then H at the next, modulo 65,536, and change nothing else. -/
def Obligations.WordStores : Prop :=
  ∀ (s : State) (w : Word), s.Quiet →
    let stores (i : Instr) (a : Word) : Prop :=
      ∃ t, exec i s = .next t ∧ ByteStored s t a s.regs.l ∧ ByteStored s t (a + 1) s.regs.h ∧
        SameMemoryBut [a, a + 1] s t ∧ t.bus = .memoryWrite (a + 1) s.regs.h :: .memoryWrite a s.regs.l :: s.bus ∧
        OnlyMemoryAndBus s t
    (encode (.shld w) = [0x22#8, loByte w, hiByte w] ∧ stores (.shld w) w) ∧
    (encode .shlx = [0xD9#8] ∧ stores .shlx (s.pair .de))

/-- Of R64 and R78: a pair written with SHLD and read back singly with LDA gives L from the lower address and H from the higher; a
store to the byte right after the instruction is what the next opcode fetch reads. -/
def Obligations.StoresAreSeen : Prop :=
  (∀ (s : State) (w : Word), s.Quiet → s.Writable w → s.Writable (w + 1) →
    ∃ t lower upper, exec (.shld w) s = .next t ∧ exec (.lda w) t = .next lower ∧ exec (.lda (w + 1)) t = .next upper ∧
      lower.regs.a = s.regs.l ∧ upper.regs.a = s.regs.h) ∧
  (∀ (s : State) (v : Byte), s.Quiet → s.pair .hl = s.pc → s.Writable s.pc →
    ∃ t, exec (.mviM v) s = .next t ∧ (t.fetchByte .opcodeFetch).1 = v)

/-! ## Arithmetic -/

/-- R141 to R146: ADD, ADI, ADC, ACI of a register, an immediate, the byte at HL, the last two with CY; A and the seven flags
as numbers say, nothing else changed but by the read of memory. -/
def Obligations.Additions : Prop :=
  ∀ s : State,
    let sums (i : Instr) (u : State) (b : Byte) (c : Nat) : Prop :=
      ∃ t, exec i s = .next t ∧ SumOf s.regs.a b c t.regs.a t.flags ∧ RegWritten s t .a t.regs.a ∧
        t = (u.setRegs t.regs).setFlags t.flags
    (∀ r : Reg, encode (.addR r) = [0b10000#5 ++ r.code] ∧ sums (.addR r) s (s.reg r) 0) ∧
    (∀ v : Byte, encode (.adi v) = [0xC6#8, v] ∧ sums (.adi v) s v 0) ∧
    (∀ r : Reg, encode (.adcR r) = [0b10001#5 ++ r.code] ∧ sums (.adcR r) s (s.reg r) s.flags.cy.toNat) ∧
    (∀ v : Byte, encode (.aci v) = [0xCE#8, v] ∧ sums (.aci v) s v s.flags.cy.toNat) ∧
    encode .addM = [0x86#8] ∧ encode .adcM = [0x8E#8] ∧
    (s.Quiet → sums .addM (s.afterRead (s.pair .hl)) (s.seen (s.pair .hl)) 0 ∧
      sums .adcM (s.afterRead (s.pair .hl)) (s.seen (s.pair .hl)) s.flags.cy.toNat)

/-- R147 to R152: SUB, SUI, SBB, SBI of a register, an immediate, the byte at HL, the last two with CY as the borrow. -/
def Obligations.Subtractions : Prop :=
  ∀ s : State,
    let differences (i : Instr) (u : State) (b : Byte) (c : Nat) : Prop :=
      ∃ t, exec i s = .next t ∧ DifferenceOf s.regs.a b c t.regs.a t.flags ∧ RegWritten s t .a t.regs.a ∧
        t = (u.setRegs t.regs).setFlags t.flags
    (∀ r : Reg, encode (.subR r) = [0b10010#5 ++ r.code] ∧ differences (.subR r) s (s.reg r) 0) ∧
    (∀ v : Byte, encode (.sui v) = [0xD6#8, v] ∧ differences (.sui v) s v 0) ∧
    (∀ r : Reg, encode (.sbbR r) = [0b10011#5 ++ r.code] ∧ differences (.sbbR r) s (s.reg r) s.flags.cy.toNat) ∧
    (∀ v : Byte, encode (.sbi v) = [0xDE#8, v] ∧ differences (.sbi v) s v s.flags.cy.toNat) ∧
    encode .subM = [0x96#8] ∧ encode .sbbM = [0x9E#8] ∧
    (s.Quiet → differences .subM (s.afterRead (s.pair .hl)) (s.seen (s.pair .hl)) 0 ∧
      differences .sbbM (s.afterRead (s.pair .hl)) (s.seen (s.pair .hl)) s.flags.cy.toNat)

/-- R153, R155: INR r and DCR r; CY is not written. -/
def Obligations.RegisterSteps : Prop :=
  ∀ (s : State) (r : Reg),
    (encode (.inrR r) = [0b00#2 ++ r.code ++ 0b100#3] ∧
      ∃ t, exec (.inrR r) s = .next t ∧ SumBut (s.reg r) 0x01#8 0 (t.reg r) t.flags ∧ t.flags.cy = s.flags.cy ∧
        RegWritten s t r (t.reg r) ∧ t = (s.setRegs t.regs).setFlags t.flags) ∧
    (encode (.dcrR r) = [0b00#2 ++ r.code ++ 0b101#3] ∧
      ∃ t, exec (.dcrR r) s = .next t ∧ DifferenceBut (s.reg r) 0x01#8 0 (t.reg r) t.flags ∧ t.flags.cy = s.flags.cy ∧
        RegWritten s t r (t.reg r) ∧ t = (s.setRegs t.regs).setFlags t.flags)

/-- R154, R156: INR M and DCR M read the byte at HL and write it back, one more or less, in two cycles; CY is not written. -/
def Obligations.MemorySteps : Prop :=
  ∀ s : State, s.Quiet →
    let hl := s.pair .hl
    let steps (i : Instr) (outcome : Byte → Flags → Prop) : Prop :=
      ∃ t r, exec i s = .next t ∧ outcome r t.flags ∧ t.flags.cy = s.flags.cy ∧ ByteStored s t hl r ∧
        SameMemoryBut [hl] s t ∧ t.bus = .memoryWrite hl r :: .memoryRead hl (s.seen hl) :: s.bus ∧
        t = (((s.setMem t.mem).setFlags t.flags).setBus t.bus).setDraws (s.draws + s.seenDraws hl)
    (encode .inrM = [0x34#8] ∧ steps .inrM (SumBut (s.seen hl) 0x01#8 0)) ∧
    (encode .dcrM = [0x35#8] ∧ steps .dcrM (DifferenceBut (s.seen hl) 0x01#8 0))

/-- R159, R160: INX and DCX of a pair, SP among them; of the flags only UI is written, and it tells of the wrap. -/
def Obligations.PairSteps : Prop :=
  ∀ (s : State) (rp : Pair),
    (encode (.inx rp) = [0b00#2 ++ rp.code ++ 0b0011#4] ∧
      ∃ t, exec (.inx rp) s = .next t ∧ PairWritten s t rp (BitVec.ofNat 16 ((s.pair rp).toNat + 1)) ∧
        (t.flags.ui = true ↔ (s.pair rp).toNat = 65535) ∧ t.flags = { s.flags with ui := t.flags.ui } ∧
        t = ((s.setRegs t.regs).setSp t.sp).setFlags t.flags) ∧
    (encode (.dcx rp) = [0b00#2 ++ rp.code ++ 0b1011#4] ∧
      ∃ t, exec (.dcx rp) s = .next t ∧ PairWritten s t rp (BitVec.ofNat 16 ((s.pair rp).toNat + 65535)) ∧
        (t.flags.ui = true ↔ (s.pair rp).toNat = 0) ∧ t.flags = { s.flags with ui := t.flags.ui } ∧
        t = ((s.setRegs t.regs).setSp t.sp).setFlags t.flags)

/-- R161: DAD adds a pair to HL; CY tells of the carry, V that the signed sum does not fit in 16 bits; UI is open. -/
def Obligations.DoubleAdd : Prop :=
  ∀ (s : State) (rp : Pair),
    encode (.dad rp) = [0b00#2 ++ rp.code ++ 0b1001#4] ∧
      ∃ t, exec (.dad rp) s = .next t ∧
        PairWritten s t .hl (BitVec.ofNat 16 ((s.pair .hl).toNat + (s.pair rp).toNat)) ∧
        (t.flags.cy = true ↔ 65536 ≤ (s.pair .hl).toNat + (s.pair rp).toNat) ∧
        (t.flags.v = true ↔ (s.pair .hl).toInt + (s.pair rp).toInt < -32768 ∨ 32767 < (s.pair .hl).toInt + (s.pair rp).toInt) ∧
        t.flags = { s.flags with cy := t.flags.cy, v := t.flags.v, ui := t.flags.ui } ∧ OnlyRegsAndFlags s t

/-- R162: DAA adds 6 to the low digit where it exceeds 9 or AC is set, and 60H where A exceeds 99H or CY is set; CY tells of
the second, AC of the carry out of the low digit; V and UI are open. -/
def Obligations.DecimalAdjust : Prop :=
  ∀ s : State,
    let a := s.regs.a.toNat
    let low := if 9 < a % 16 ∨ s.flags.ac = true then 6 else 0
    let high := if 0x99 < a ∨ s.flags.cy = true then 0x60 else 0
    encode .daa = [0x27#8] ∧
      ∃ t, exec .daa s = .next t ∧ t.regs.a.toNat = (a + low + high) % 256 ∧ ResultFlags t.regs.a t.flags ∧
        (t.flags.cy = true ↔ 0x99 < a ∨ s.flags.cy = true) ∧ (t.flags.ac = true ↔ 16 ≤ a % 16 + low) ∧
        RegWritten s t .a t.regs.a ∧ OnlyRegsAndFlags s t

/-- Of R162: an addition of two packed-BCD bytes followed by DAA leaves the packed-BCD sum modulo 100 in A, with CY for the
hundred. -/
def Obligations.DecimalAddition : Prop :=
  ∀ (s : State) (v : Byte), IsBcd s.regs.a → IsBcd v →
    ∃ t u, exec (.adi v) s = .next t ∧ exec .daa t = .next u ∧ IsBcd u.regs.a ∧
      bcdValue u.regs.a = (bcdValue s.regs.a + bcdValue v) % 100 ∧
      (u.flags.cy = true ↔ 100 ≤ bcdValue s.regs.a + bcdValue v)

/-! ## Logic -/

/-- R171 to R179: AND, exclusive OR and OR of A with a register, an immediate, the byte at HL; S, Z, P of the result, CY
cleared, AC set by AND and cleared by the others; V and UI are open. -/
def Obligations.LogicalOperations : Prop :=
  ∀ s : State,
    let gives (i : Instr) (u : State) (r : Byte) (ac : Bool) : Prop :=
      ∃ t, exec i s = .next t ∧ RegWritten s t .a r ∧ ResultFlags r t.flags ∧ t.flags.cy = false ∧ t.flags.ac = ac ∧
        OnlyRegsAndFlags u t
    (∀ r : Reg, encode (.anaR r) = [0b10100#5 ++ r.code] ∧ gives (.anaR r) s (s.regs.a &&& s.reg r) true) ∧
    (∀ v : Byte, encode (.ani v) = [0xE6#8, v] ∧ gives (.ani v) s (s.regs.a &&& v) true) ∧
    (∀ r : Reg, encode (.xraR r) = [0b10101#5 ++ r.code] ∧ gives (.xraR r) s (s.regs.a ^^^ s.reg r) false) ∧
    (∀ v : Byte, encode (.xri v) = [0xEE#8, v] ∧ gives (.xri v) s (s.regs.a ^^^ v) false) ∧
    (∀ r : Reg, encode (.oraR r) = [0b10110#5 ++ r.code] ∧ gives (.oraR r) s (s.regs.a ||| s.reg r) false) ∧
    (∀ v : Byte, encode (.ori v) = [0xF6#8, v] ∧ gives (.ori v) s (s.regs.a ||| v) false) ∧
    encode .anaM = [0xA6#8] ∧ encode .xraM = [0xAE#8] ∧ encode .oraM = [0xB6#8] ∧
    (s.Quiet →
      let hl := s.pair .hl
      gives .anaM (s.afterRead hl) (s.regs.a &&& s.seen hl) true ∧
      gives .xraM (s.afterRead hl) (s.regs.a ^^^ s.seen hl) false ∧
      gives .oraM (s.afterRead hl) (s.regs.a ||| s.seen hl) false)

/-- R180 to R182: CMP and CPI set the seven flags as the subtraction would and keep A; Z, CY, UI say equal, less without
sign, less with sign. -/
def Obligations.Compares : Prop :=
  ∀ s : State,
    let compares (i : Instr) (u : State) (b : Byte) : Prop :=
      ∃ t r, exec i s = .next t ∧ DifferenceOf s.regs.a b 0 r t.flags ∧ (t.flags.z = true ↔ s.regs.a = b) ∧
        (t.flags.cy = true ↔ s.regs.a.toNat < b.toNat) ∧ (t.flags.ui = true ↔ s.regs.a.toInt < b.toInt) ∧
        t = u.setFlags t.flags
    (∀ r : Reg, encode (.cmpR r) = [0b10111#5 ++ r.code] ∧ compares (.cmpR r) s (s.reg r)) ∧
    (∀ v : Byte, encode (.cpi v) = [0xFE#8, v] ∧ compares (.cpi v) s v) ∧
    encode .cmpM = [0xBE#8] ∧ (s.Quiet → compares .cmpM (s.afterRead (s.pair .hl)) (s.seen (s.pair .hl)))

/-- R183 to R189: the four rotates, as numbers; CMA complements A and writes no flag; CMC complements CY, STC sets it. Of the
flags the rotates, CMC and STC write CY and leave V and UI open. -/
def Obligations.RotatesAndCarry : Prop :=
  ∀ s : State,
    let a := s.regs.a.toNat
    let c := s.flags.cy.toNat
    let gives (i : Instr) (result : Nat) (out : Nat) : Prop :=
      ∃ t, exec i s = .next t ∧ t.regs.a.toNat = result ∧ t.flags.cy.toNat = out ∧
        t.flags = { s.flags with cy := t.flags.cy, v := t.flags.v, ui := t.flags.ui } ∧ RegWritten s t .a t.regs.a ∧
        OnlyRegsAndFlags s t
    (encode .rlc = [0x07#8] ∧ gives .rlc (2 * a % 256 + a / 128) (a / 128)) ∧
    (encode .rrc = [0x0F#8] ∧ gives .rrc (128 * (a % 2) + a / 2) (a % 2)) ∧
    (encode .ral = [0x17#8] ∧ gives .ral (2 * a % 256 + c) (a / 128)) ∧
    (encode .rar = [0x1F#8] ∧ gives .rar (128 * c + a / 2) (a % 2)) ∧
    (encode .cma = [0x2F#8] ∧
      ∃ t, exec .cma s = .next t ∧ t.regs.a.toNat = 255 - a ∧ RegWritten s t .a t.regs.a ∧ OnlyRegs s t) ∧
    (encode .cmc = [0x3F#8] ∧ gives .cmc a (1 - c)) ∧ (encode .stc = [0x37#8] ∧ gives .stc a 1)

/-- The corner cases of R183, R185 and R278: eight RLC restore A, nine RAL restore A and CY, seventeen RDEL restore DE and
CY. -/
def Obligations.FullTurns : Prop :=
  ∀ s : State,
    (∃ t, execTimes .rlc 8 s = .next t ∧ t.regs = s.regs) ∧
    (∃ t, execTimes .ral 9 s = .next t ∧ t.regs = s.regs ∧ t.flags.cy = s.flags.cy) ∧
    (∃ t, execTimes .rdel 17 s = .next t ∧ t.regs = s.regs ∧ t.flags.cy = s.flags.cy)

/-! ## Branches -/

/-- R201, R232: JMP and PCHL, fetched, move pc and nothing else; a conditional jump does when its condition is true, and else
changes nothing. -/
def Obligations.Jumps : Prop :=
  ∀ (s : State) (w : Word),
    (encode (.jmp w) = [0xC3#8, loByte w, hiByte w] ∧ exec (.jmp w) s = .next (s.setPc w)) ∧
    (encode .pchl = [0xE9#8] ∧ exec .pchl s = .next (s.setPc (s.pair .hl))) ∧
    ∀ x ∈ conditionalJumps, exec (x.2.1 w) s = .next (s.setPc (if x.2.2 s.flags = true then w else s.pc))

/-- R202 to R210, R212, R273, R274: the step that executes a conditional jump: taken, it reads three bytes and goes to the
address in the last two; not taken, it reads two and goes on three bytes after the first. A conditional call not taken does
the same, and makes no stack access. -/
def Obligations.ConditionalSteps : Prop :=
  ∀ (s : State) (w : Word),
    let u := s.atFetch
    let fetched (opcode : Byte) := [BusCycle.memoryRead (u.pc + 1) (loByte w), BusCycle.opcodeFetch u.pc opcode] ++ u.bus
    let begins (opcode : Byte) : Prop :=
      s.Executes ∧ u.Quiet ∧ u.Populated u.pc ∧ u.Populated (u.pc + 1) ∧ u.peek u.pc = opcode ∧
      u.peek (u.pc + 1) = loByte w
    (∀ x ∈ conditionalJumps, encode (x.2.1 w) = [x.1, loByte w, hiByte w] ∧
      (begins x.1 → x.2.2 u.flags = true → u.Populated (u.pc + 2) → u.peek (u.pc + 2) = hiByte w →
        step s = .next ((u.setPc w).setBus (.memoryRead (u.pc + 2) (hiByte w) :: fetched x.1)))) ∧
    (∀ x ∈ conditionalJumps ++ conditionalCalls, begins x.1 → x.2.2 u.flags = false →
      step s = .next ((u.setPc (u.pc + 3)).setBus (fetched x.1)))

/-- Fetched, a call pushes pc, the address of the next instruction, and goes to its target: CALL always, a conditional call
when its condition is true; not taken it changes nothing. -/
def Obligations.Calls : Prop :=
  ∀ (s : State) (w : Word), s.Quiet →
    let calls (i : Instr) : Prop := ∃ t, exec i s = .next t ∧ Pushed s t s.pc ∧ t.pc = w ∧ OnlyStackAndPc s t
    encode (.call w) = [0xCD#8, loByte w, hiByte w] ∧ calls (.call w) ∧
    ∀ x ∈ conditionalCalls,
      encode (x.2.1 w) = [x.1, loByte w, hiByte w] ∧ (x.2.2 s.flags = true → calls (x.2.1 w)) ∧
      (x.2.2 s.flags = false → exec (x.2.1 w) s = .next s)

/-- R221 to R230: RET pops pc; a conditional return does when its condition is true and else changes nothing. -/
def Obligations.Returns : Prop :=
  ∀ s : State, s.Quiet →
    encode .ret = [0xC9#8] ∧ exec .ret s = .next (s.afterPop.setPc (s.seen16 s.sp)) ∧
    ∀ x ∈ conditionalReturns,
      encode x.2.1 = [x.1] ∧ exec x.2.1 s = .next (if x.2.2 s.flags = true then s.afterPop.setPc (s.seen16 s.sp) else s)

/-- R231, R279: RST n is a call to 8 times n, for the eight values of n; RSTV a call to 0040H when V is set, and else
changes nothing. Neither touches INTE or a flag. -/
def Obligations.Restarts : Prop :=
  ∀ s : State, s.Quiet →
    let calls (i : Instr) (target : Word) : Prop :=
      ∃ t, exec i s = .next t ∧ Pushed s t s.pc ∧ t.pc = target ∧ OnlyStackAndPc s t
    (∀ n : BitVec 3, encode (.rst n.toNat) = [0b11#2 ++ n ++ 0b111#3] ∧ calls (.rst n.toNat) (BitVec.ofNat 16 (8 * n.toNat))) ∧
    encode .rstv = [0xCB#8] ∧ (s.flags.v = true → calls .rstv 0x0040#16) ∧ (s.flags.v = false → exec .rstv s = .next s)

/-- Of R233: what a call pushes, RET pops: control comes back after the call and SP to where it was. -/
def Obligations.CallThenReturn : Prop :=
  ∀ (s : State) (w : Word), s.Quiet → s.Writable (s.sp - 1) → s.Writable (s.sp - 2) →
    ∃ t u, exec (.call w) s = .next t ∧ exec .ret t = .next u ∧ t.pc = w ∧ u.pc = s.pc ∧ u.sp = s.sp ∧ u.regs = s.regs ∧
      u.flags = s.flags ∧ u.ctl = s.ctl

/-! ## Stack, input and output, machine control -/

/-- R240, R241: PUSH writes the high register at SP - 1, then the low one at SP - 2; PUSH PSW writes A and then the flag
byte, whose bit 3 is 0. -/
def Obligations.Pushes : Prop :=
  ∀ (s : State) (rp : StackPair), s.Quiet →
    let pushes (i : Instr) (hi lo : Byte) : Prop :=
      ∃ t, exec i s = .next t ∧ Pushed s t (ofBytes hi lo) ∧ OnlyStackAndPc s t ∧ t.pc = s.pc
    encode (.pushRp rp) = [0b11#2 ++ rp.code ++ 0b0101#4] ∧ pushes (.pushRp .bc) s.regs.b s.regs.c ∧
    pushes (.pushRp .de) s.regs.d s.regs.e ∧ pushes (.pushRp .hl) s.regs.h s.regs.l ∧
    encode .pushPsw = [0xF5#8] ∧
    ∃ f : Byte, pushes .pushPsw s.regs.a f ∧ f.getLsbD 7 = s.flags.s ∧ f.getLsbD 6 = s.flags.z ∧ f.getLsbD 5 = s.flags.ui ∧
      f.getLsbD 4 = s.flags.ac ∧ f.getLsbD 3 = false ∧ f.getLsbD 2 = s.flags.p ∧ f.getLsbD 1 = s.flags.v ∧
      f.getLsbD 0 = s.flags.cy

/-- R242, R243: POP reads the low register at SP, then the high one at SP + 1; POP PSW reads the flags, bit 3 ignored, and
then A. -/
def Obligations.Pops : Prop :=
  ∀ (s : State) (rp : StackPair), s.Quiet →
    let lo := s.seen s.sp
    let hi := (s.afterRead s.sp).seen (s.sp + 1)
    encode (.popRp rp) = [0b11#2 ++ rp.code ++ 0b0001#4] ∧
    exec (.popRp .bc) s = .next (s.afterPop.setRegs { s.regs with b := hi, c := lo }) ∧
    exec (.popRp .de) s = .next (s.afterPop.setRegs { s.regs with d := hi, e := lo }) ∧
    exec (.popRp .hl) s = .next (s.afterPop.setRegs { s.regs with h := hi, l := lo }) ∧
    encode .popPsw = [0xF1#8] ∧
    ∃ t, exec .popPsw s = .next t ∧ t = (s.afterPop.setRegs { s.regs with a := hi }).setFlags t.flags ∧
      t.flags.s = lo.getLsbD 7 ∧ t.flags.z = lo.getLsbD 6 ∧ t.flags.ui = lo.getLsbD 5 ∧ t.flags.ac = lo.getLsbD 4 ∧
      t.flags.p = lo.getLsbD 2 ∧ t.flags.v = lo.getLsbD 1 ∧ t.flags.cy = lo.getLsbD 0

/-- From R28: PUSH PSW in one state and POP PSW in the next give back A and the seven flags, whatever A and the flags have become
in between. -/
def Obligations.FlagByteRoundTrip : Prop :=
  ∀ (s : State) (x : Regs) (f : Flags), s.Quiet → s.Writable (s.sp - 1) → s.Writable (s.sp - 2) →
    ∃ t u, exec .pushPsw s = .next t ∧ exec .popPsw ((t.setRegs x).setFlags f) = .next u ∧
      u.flags = s.flags ∧ u.regs = { x with a := s.regs.a } ∧ u.sp = s.sp

/-- R244: XTHL reads the low byte at SP and the high one at SP + 1, writes H at SP + 1, then L at SP, and takes the bytes it
read; SP stays. -/
def Obligations.ExchangeTop : Prop :=
  ∀ s : State, s.Quiet →
    encode .xthl = [0xE3#8] ∧
    ∃ t, exec .xthl s = .next t ∧ PairWritten s t .hl (s.seen16 s.sp) ∧ ByteStored s t (s.sp + 1) s.regs.h ∧
      ByteStored s t s.sp s.regs.l ∧ SameMemoryBut [s.sp, s.sp + 1] s t ∧
      t.bus = .memoryWrite s.sp s.regs.l :: .memoryWrite (s.sp + 1) s.regs.h :: (s.afterRead16 s.sp).bus ∧
      t = (((s.afterRead16 s.sp).setRegs t.regs).setMem t.mem).setBus t.bus

/-- R246, R247: IN makes one I/O-read cycle and loads A with what the device presents, an open value where none does; OUT
makes one I/O-write cycle with A and changes nothing else. -/
def Obligations.InputOutput : Prop :=
  ∀ (s : State) (p : Byte), s.Quiet →
    (encode (.inp p) = [0xDB#8, p] ∧
      ∃ t, exec (.inp p) s = .next t ∧ RegWritten s t .a t.regs.a ∧ t.bus = .ioRead p t.regs.a :: s.bus ∧
        (∀ v, s.env.ports.lookup p = some v → t.regs.a = v ∧ t.draws = s.draws) ∧
        t = ((s.setRegs t.regs).setBus t.bus).setDraws t.draws) ∧
    (encode (.out p) = [0xD3#8, p] ∧ exec (.out p) s = .next (s.setBus (.ioWrite p s.regs.a :: s.bus)))

/-- What EI, DI, HLT and NOP themselves write, once fetched (R248 to R251); and while HALTED is 1, with no request, no HOLD
and no RESET IN, a step only samples the pins. -/
def Obligations.MachineControl : Prop :=
  ∀ s : State,
    (encode .ei = [0xFB#8] ∧ exec .ei s = .next (s.setCtl { s.ctl with inte := true, eiPend := true })) ∧
    (encode .di = [0xF3#8] ∧ exec .di s = .next (s.setCtl { s.ctl with inte := false })) ∧
    (encode .hlt = [0x76#8] ∧ exec .hlt s = .next (s.setCtl { s.ctl with halted := true })) ∧
    (encode .nop = [0x00#8] ∧ exec .nop s = .next s) ∧
    (s.sample.env.resetIn = false → s.sample.env.hold = false → s.sample.releaseBus.request = none →
      s.ctl.halted = true → s.suspended = none → step s = .next s.sample.releaseBus)

/-- R255: RIM loads A with the SID level, the R7.5 latch, the two pin levels, the interrupt enable or, first after a TRAP,
its saved value, and the masks; of the control state only TRAPIE.armed is written. -/
def Obligations.ReadInterruptMask : Prop :=
  ∀ s : State,
    encode .rim = [0x20#8] ∧
    ∃ t, exec .rim s = .next t ∧
      (∀ k : Nat, t.regs.a.getLsbD k = [s.ctl.m55, s.ctl.m65, s.ctl.m75,
        if s.ctl.trapArmed = true then s.ctl.trapSaved else s.ctl.inte, s.env.rst55, s.env.rst65, s.ctl.r75,
        s.env.sid].getD k false) ∧
      RegWritten s t .a t.regs.a ∧ t = (s.setRegs t.regs).setCtl { s.ctl with trapArmed := false }

/-- R256: SIM copies bits 2 to 0 of A to the masks if bit 3 is set, clears R7.5 if bit 4 is set, copies bit 7 to SOD if bit 6
is set, each independently of the others. -/
def Obligations.SetInterruptMask : Prop :=
  ∀ s : State,
    let bit (k : Nat) : Bool := s.regs.a.getLsbD k
    encode .sim = [0x30#8] ∧
    ∃ t, exec .sim s = .next t ∧
      (bit 3 = true → t.ctl.m75 = bit 2 ∧ t.ctl.m65 = bit 1 ∧ t.ctl.m55 = bit 0) ∧
      (bit 3 = false → t.ctl.m75 = s.ctl.m75 ∧ t.ctl.m65 = s.ctl.m65 ∧ t.ctl.m55 = s.ctl.m55) ∧
      (bit 4 = true → t.ctl.r75 = false) ∧ (bit 4 = false → t.ctl.r75 = s.ctl.r75) ∧
      (bit 6 = true → t.ctl.sod = bit 7) ∧ (bit 6 = false → t.ctl.sod = s.ctl.sod) ∧
      t = s.setCtl { s.ctl with m75 := t.ctl.m75, m65 := t.ctl.m65, m55 := t.ctl.m55, r75 := t.ctl.r75, sod := t.ctl.sod }

/-! ## The extended set -/

/-- R271: ARHL halves HL as a signed number, rounding down; CY is the remainder; no other flag is written. -/
def Obligations.ArithmeticShift : Prop :=
  ∀ s : State,
    encode .arhl = [0x10#8] ∧
    ∃ t, exec .arhl s = .next t ∧ (t.pair .hl).toInt = (s.pair .hl).toInt / 2 ∧
      (t.flags.cy = true ↔ (s.pair .hl).toNat % 2 = 1) ∧ PairWritten s t .hl (t.pair .hl) ∧
      t.flags = { s.flags with cy := t.flags.cy } ∧ t = (s.setRegs t.regs).setFlags t.flags

/-- R272: DSUB subtracts BC from HL; Z and S of the 16-bit result, CY the borrow, V the signed overflow, UI signed less; P and
AC are open. -/
def Obligations.DoubleSubtract : Prop :=
  ∀ s : State,
    let a := s.pair .hl
    let b := s.pair .bc
    encode .dsub = [0x08#8] ∧
    ∃ t, exec .dsub s = .next t ∧ PairWritten s t .hl (a - b) ∧ (t.flags.z = true ↔ a = b) ∧
      (t.flags.s = true ↔ 32768 ≤ (a - b).toNat) ∧ (t.flags.cy = true ↔ a.toNat < b.toNat) ∧
      (t.flags.v = true ↔ a.toInt - b.toInt < -32768 ∨ 32767 < a.toInt - b.toInt) ∧
      (t.flags.ui = true ↔ a.toInt < b.toInt) ∧ OnlyRegsAndFlags s t

/-- R275, R276: LDHI and LDSI load DE with HL or SP plus the zero-extended byte, modulo 65,536, and write no flag. -/
def Obligations.LoadPairPlusByte : Prop :=
  ∀ (s : State) (v : Byte),
    (encode (.ldhi v) = [0x28#8, v] ∧
      ∃ t, exec (.ldhi v) s = .next t ∧ PairWritten s t .de (BitVec.ofNat 16 ((s.pair .hl).toNat + v.toNat)) ∧
        OnlyRegs s t) ∧
    (encode (.ldsi v) = [0x38#8, v] ∧
      ∃ t, exec (.ldsi v) s = .next t ∧ PairWritten s t .de (BitVec.ofNat 16 (s.sp.toNat + v.toNat)) ∧ OnlyRegs s t)

/-- R278: RDEL is DE + DE + CY with CY the carry out, and V tells that the sign of DE changed. -/
def Obligations.RotateDeThroughCarry : Prop :=
  ∀ s : State,
    let sum := 2 * (s.pair .de).toNat + s.flags.cy.toNat
    encode .rdel = [0x18#8] ∧
    ∃ t, exec .rdel s = .next t ∧ PairWritten s t .de (BitVec.ofNat 16 sum) ∧ (t.flags.cy = true ↔ 65536 ≤ sum) ∧
      (t.flags.v = true ↔ (t.pair .de).msb ≠ (s.pair .de).msb) ∧
      t.flags = { s.flags with cy := t.flags.cy, v := t.flags.v } ∧ t = (s.setRegs t.regs).setFlags t.flags

/-! ## Steps, interrupts, reset and hold -/

/-- A step at which an instruction executes runs the instruction that the bytes at pc decode to, with those bytes fetched and
pc after the last of them. -/
def Obligations.StepRunsDecodedInstruction : Prop :=
  ∀ (s : State) (i : Instr) (rest : List Byte),
    let u := s.atFetch
    s.Executes → u.Quiet → (∀ k : Nat, k < u.fetchCycles.length → u.Populated (u.pc + BitVec.ofNat 16 k)) →
    decode [u.peek u.pc, u.peek (u.pc + 1), u.peek (u.pc + 2)] = .ok (i, rest) → i.wellFormed = true →
    step s = exec i ((u.setPc (u.pc + BitVec.ofNat 16 (encode i).length)).setBus (u.fetchCycles ++ u.bus))

/-- What sampling does, and which request is taken. Whatever the masks and INTE are, an edge on TRAP sets TRAPL and one on
RST7.5 sets R7.5, and nothing else changes but the sample (of R303, R304, R311); that the environment is a list of samples,
the levels staying when it ends, is log 8, a DESIGN CHOICE. The request is the first present in the order TRAP, RST7.5, RST6.5,
RST5.5, INTR (R310, with the conditions of R303 to R307 and R312). -/
def Obligations.RequestPriority : Prop :=
  ∀ s : State,
    let latched (t : State) (trapEdge rst75Edge : Bool) : Prop :=
      (t.ctl.trapL = true ↔ s.ctl.trapL = true ∨ trapEdge = true) ∧ (t.ctl.r75 = true ↔ s.ctl.r75 = true ∨ rst75Edge = true) ∧
      t = ((s.setEnv t.env).setInputs t.inputs).setCtl { s.ctl with trapL := t.ctl.trapL, r75 := t.ctl.r75 }
    let trap := s.ctl.trapL = true ∧ s.env.trap = true
    let enabled := s.ctl.inte = true ∧ s.ctl.eiPend = false
    let rst75 := enabled ∧ s.ctl.r75 = true ∧ s.ctl.m75 = false
    let rst65 := enabled ∧ s.env.rst65 = true ∧ s.ctl.m65 = false
    let rst55 := enabled ∧ s.env.rst55 = true ∧ s.ctl.m55 = false
    let intr := enabled ∧ s.env.intr = true
    (∀ e es, s.inputs = e :: es →
      latched s.sample e.trapEdge e.rst75Edge ∧ s.sample.env = e ∧ s.sample.inputs = es) ∧
    (s.inputs = [] →
      latched s.sample false false ∧ s.sample.inputs = [] ∧
      s.sample.env = { s.env with trapEdge := false, rst75Edge := false, master := [], cycles := [] }) ∧
    (s.request = some (.restart .trap) ↔ trap) ∧
    (s.request = some (.restart .rst75) ↔ rst75 ∧ ¬ trap) ∧
    (s.request = some (.restart .rst65) ↔ rst65 ∧ ¬ rst75 ∧ ¬ trap) ∧
    (s.request = some (.restart .rst55) ↔ rst55 ∧ ¬ rst65 ∧ ¬ rst75 ∧ ¬ trap) ∧
    (s.request = some .intr ↔ intr ∧ ¬ rst55 ∧ ¬ rst65 ∧ ¬ rst75 ∧ ¬ trap)

/-- R315, R316: taking TRAP, RST7.5, RST6.5 or RST5.5 pushes pc, goes to the fixed address, clears INTE, EIPEND, HALTED and
the latch taken; TRAP saves INTE; nothing else changes and no other cycle is made. -/
def Obligations.RestartEntry : Prop :=
  ∀ (s : State) (k : Restart),
    let u := s.sample.releaseBus
    s.sample.env.resetIn = false → s.sample.env.hold = false → u.request = some (.restart k) → u.Quiet →
    ∃ t, step s = .next t ∧ Pushed u t u.pc ∧
      t.pc = (match k with
        | .trap => 0x0024#16
        | .rst75 => 0x003C#16
        | .rst65 => 0x0034#16
        | .rst55 => 0x002C#16) ∧
      t.ctl = { u.ctl with
        inte := false
        eiPend := false
        halted := false
        trapL := u.ctl.trapL && k != .trap
        r75 := u.ctl.r75 && k != .rst75
        trapSaved := if k = .trap then u.ctl.inte else u.ctl.trapSaved
        trapArmed := u.ctl.trapArmed || k == .trap } ∧
      OnlyStackAndPc (u.setCtl t.ctl) t

/-- R318 to R320: INTR is answered with RST n or with CALL; pc is pushed as it was, INTE, EIPEND and HALTED are cleared, and
the bytes come in acknowledge cycles. -/
def Obligations.IntrEntry : Prop :=
  ∀ s : State,
    let u := s.sample.releaseBus
    let enters (acks : List BusCycle) (target : Word) : Prop :=
      ∃ t, step s = .next t ∧ Pushed (u.setBus (acks ++ u.bus)) t u.pc ∧ t.pc = target ∧
        OnlyStackAndPc (u.setCtl { u.ctl with inte := false, eiPend := false, halted := false }) t
    s.sample.env.resetIn = false → s.sample.env.hold = false → u.request = some .intr → u.Quiet →
    (∀ n : BitVec 3, u.env.inta0 = 0b11#2 ++ n ++ 0b111#3 →
      enters [.interruptAcknowledge u.env.inta0] (BitVec.ofNat 16 (8 * n.toNat))) ∧
    (u.env.inta0 = 0xCD#8 →
      enters [.interruptAcknowledge u.env.inta2, .interruptAcknowledge u.env.inta1, .interruptAcknowledge 0xCD#8]
        (ofBytes u.env.inta2 u.env.inta1))

/-- No step ends in a fault (of R300), and a step is refused only where INTR is answered with a byte that is neither RST n nor
CALL (of R321). Exactly when rests on the model's choices: RESET IN and HOLD come before requests at a boundary (log 9), either
may cut the step before the acknowledge cycle (log 10, log 16), and then there is no byte. Where an entry goes on after a HOLD,
the refusal still names such a byte. -/
def Obligations.StepOutcomes : Prop :=
  ∀ s : State,
    (∀ f, step s ≠ .fault f) ∧
    (∀ r, step s = .refused r →
      ∃ op : Byte, r = .acknowledgedOther op ∧ (∀ n : BitVec 3, op ≠ 0b11#2 ++ n ++ 0b111#3) ∧ op ≠ 0xCD#8) ∧
    (s.suspended = none → ∀ r, step s = .refused r ↔
      let u := s.sample.releaseBus
      s.sample.env.resetIn = false ∧ s.sample.env.hold = false ∧ u.request = some .intr ∧ u.abandoned = false ∧
      u.env.cycles.head? ≠ some .resetIn ∧ (∀ ws, u.env.cycles.head? ≠ some (.hold ws)) ∧
      (∀ n : BitVec 3, u.env.inta0 ≠ 0b11#2 ++ n ++ 0b111#3) ∧ u.env.inta0 ≠ 0xCD#8 ∧
      r = .acknowledgedOther u.env.inta0)

/-- Of R312 and R44: while EIPEND is 1 only TRAP is recognised; after a step that runs an instruction EIPEND is 1 only if that
was EI; and the step of an EI that is not cut in its fetch leaves INTE and EIPEND 1. -/
def Obligations.EiDelay : Prop :=
  (∀ (s : State) (q : Request), s.ctl.eiPend = true → s.request = some q → q = .restart .trap) ∧
  (∀ s v t : State, s.Inv → s.boundary = .run .instruction v → step s = .next t → t.ctl.eiPend = true →
    v.fetchInstr.1 = .ei) ∧
  (∀ s v : State, s.boundary = .run .instruction v → v.fetchInstr.1 = .ei → v.fetchInstr.2.abandoned = false →
    ∃ t, step s = .next t ∧ t.ctl = { v.ctl with inte := true, eiPend := true })

/-- Of R324 and R45: after a TRAP is taken the first RIM reports in bit 3 the INTE of before, the second the INTE of now. -/
def Obligations.RimAfterTrap : Prop :=
  ∀ s : State,
    let u := s.sample.releaseBus
    s.sample.env.resetIn = false → s.sample.env.hold = false → u.request = some (.restart .trap) → u.Quiet →
    ∃ t t1 t2, step s = .next t ∧ exec .rim t = .next t1 ∧ exec .rim t1 = .next t2 ∧
      t1.regs.a.getLsbD 3 = u.ctl.inte ∧ t2.regs.a.getLsbD 3 = false

/-- Of the control state an instruction writes: EI INTE and EIPEND, DI INTE, HLT HALTED, RIM TRAPIE.armed, SIM the masks, R7.5
and SOD; every other instruction nothing. -/
def Obligations.ControlFrame : Prop :=
  ∀ (i : Instr) (s t : State), exec i s = .next t →
    t.ctl = (match i with
      | .ei => { s.ctl with inte := true, eiPend := true }
      | .di => { s.ctl with inte := false }
      | .hlt => { s.ctl with halted := true }
      | .rim => { s.ctl with trapArmed := false }
      | .sim => { s.ctl with m75 := t.ctl.m75, m65 := t.ctl.m65, m55 := t.ctl.m55, r75 := t.ctl.r75, sod := t.ctl.sod }
      | _ => s.ctl)

/-- Of R37: a step changes a mask only if it executes SIM or RESET IN is asserted, at the boundary or during the step. -/
def Obligations.MasksChangeOnlyBySimOrReset : Prop :=
  ∀ s t : State, step s = .next t →
    (t.ctl.m75 = s.ctl.m75 ∧ t.ctl.m65 = s.ctl.m65 ∧ t.ctl.m55 = s.ctl.m55) ∨
    (∃ v, s.boundary = .run .instruction v ∧ v.fetchInstr.1 = .sim) ∨
    s.sample.env.resetIn = true ∨ CycleEvent.resetIn ∈ s.sample.env.cycles

/-- Of R35: what each instruction does to each flag, by the table of that rule; taking an interrupt writes none. -/
def Obligations.FlagTable : Prop :=
  (∀ (i : Instr) (s t : State), exec i s = .next t →
    (flagRowOf i).s.Allows s.flags.s t.flags.s ∧ (flagRowOf i).z.Allows s.flags.z t.flags.z ∧
    (flagRowOf i).ac.Allows s.flags.ac t.flags.ac ∧ (flagRowOf i).p.Allows s.flags.p t.flags.p ∧
    (flagRowOf i).cy.Allows s.flags.cy t.flags.cy ∧ (flagRowOf i).v.Allows s.flags.v t.flags.v ∧
    (flagRowOf i).ui.Allows s.flags.ui t.flags.ui) ∧
  (∀ (q : Request) (s t : State), (s.accept q).enter q = .next t → t.flags = s.flags)

/-- Of R24: SP is written only by LXI SP, SPHL, INX SP, DCX SP and by pushes and pops. -/
def Obligations.StackPointerWriters : Prop :=
  ∀ (i : Instr) (s t : State), exec i s = .next t → writesSp i = false → t.sp = s.sp

/-- Of R61: only IN reads the I/O space and only OUT writes it; the entry of an interrupt does neither. -/
def Obligations.IoOnlyByInAndOut : Prop :=
  (∀ (i : Instr) (s t : State), exec i s = .next t →
    ((∀ p, i ≠ .inp p) → t.bus.filter BusCycle.isIoRead = s.bus.filter BusCycle.isIoRead) ∧
    ((∀ p, i ≠ .out p) → t.bus.filter BusCycle.isIoWrite = s.bus.filter BusCycle.isIoWrite)) ∧
  (∀ (q : Request) (s t : State), (s.accept q).enter q = .next t →
    t.bus.filter BusCycle.isIoRead = s.bus.filter BusCycle.isIoRead ∧
    t.bus.filter BusCycle.isIoWrite = s.bus.filter BusCycle.isIoWrite)

/-- The invariant holds at reset. The invariant is the model's: see `InvariantKept`. -/
def Obligations.InvariantAtReset : Prop := State.reset.Inv

/-- Every step keeps the invariant: memory in canonical form, no step left cut, EIPEND only with INTE and never while halted,
HLDA only while HOLD is requested, and an activity stopped part-way only while HLDA stands, without EIPEND and HALTED. The
canonical form, the mark of a cut step and the form in which an activity waits are the model's choices (log 3, 10, 16); EIPEND
rests on R44 and R311, HLDA on R46 and R328. -/
def Obligations.InvariantKept : Prop := ∀ s t : State, s.Inv → step s = .next t → t.Inv

/-- No step, whoever has the bus, changes a byte where no RAM stands (of R71). That no step changes what stands where is log 6,
a DESIGN CHOICE: a platform that switches banks is not this model's. -/
def Obligations.OnlyRamChanges : Prop :=
  ∀ s t : State, step s = .next t → t.memMap = s.memMap ∧ ∀ a, ¬ s.Writable a → t.peek a = s.peek a

/-- R49: what RESET IN leaves, in a run and in the reset state, also where a HOLD had stopped an instruction part-way; memory is
not touched. What R49 leaves unspecified (A to L, SP, the flags) is left out: the values of the reset state there are log 1.
After a step that RESET IN ends RO is active (of R350). -/
def Obligations.ResetLeaves : Prop :=
  let isReset (t : State) : Prop :=
    t.pc = 0x0000#16 ∧ t.ctl.inte = false ∧ t.ctl.hlda = false ∧ t.ctl.m75 = true ∧ t.ctl.m65 = true ∧ t.ctl.m55 = true ∧
    t.ctl.r75 = false ∧ t.ctl.trapL = false ∧ t.ctl.sod = false ∧ t.ctl.halted = false ∧ t.ctl.eiPend = false ∧
    t.ctl.trapArmed = false ∧ t.suspended = none
  isReset State.reset ∧
  ∀ s : State, s.sample.env.resetIn = true →
    ∃ t, step s = .next t ∧ isReset t ∧ t.mem = s.mem ∧ t.memMap = s.memMap ∧ t.resetOut = true

/-- RESET IN between the two writes of SHLD leaves the first byte written and not the second, and RO active: R350 lets a reset
fall there; that it falls between machine cycles is U7 and log 10. -/
def Obligations.ResetMidStore : Prop :=
  ∀ (s v : State) (w : Word), s.abandoned = false → s.suspended = none → s.env.cycles = [.undisturbed, .resetIn] →
    s.Writable w →
    ∃ t u, exec (.shld w) s = .next t ∧ settle .instruction v (.next t) = .next u ∧ u.pc = 0x0000#16 ∧
      u.ctl.inte = false ∧ u.resetOut = true ∧ u.peek w = s.regs.l ∧ (∀ a, a ≠ w → u.peek a = s.peek a)

/-- HOLD at a boundary, or while a HOLD has an activity stopped part-way, sets HLDA; only what the other master writes changes,
and the processor makes no cycle (R328; that HOLD comes before requests at a boundary is the model's choice, log 9). Where a step
ends part-way, HLDA stands and HOLD is high, and registers, SP, pc and flags are as before the step (log 16). -/
def Obligations.HoldGrantsBus : Prop :=
  (∀ s : State, s.sample.env.resetIn = false → s.sample.env.hold = true →
    ∃ t, step s = .next t ∧ t = (s.sample.setCtl { s.sample.ctl with hlda := true }).setMem t.mem ∧
      ∀ a, (∀ v, (a, v) ∉ s.sample.env.master) → t.peek a = s.peek a) ∧
  (∀ s t : State, s.abandoned = false → step s = .next t → t.suspended ≠ none →
    t.ctl.hlda = true ∧ t.env.hold = true ∧ t.regs = s.regs ∧ t.sp = s.sp ∧ t.pc = s.pc ∧ t.flags = s.flags)

/-- INR M is not atomic (R67): a HOLD between its read and its write stops it there with HLDA 1, and another master writes `v` at
`a`. RESET IN now means that the write is never made. If HOLD is low at the next boundary the write is made, HLDA is 0, and
the instruction is over: what the master wrote stands, but at HL, and no cycle was made twice (of R328, R75, R350; the form in
which the instruction waits is log 16). -/
def Obligations.HoldBetweenReadAndWrite : Prop :=
  ∀ (s : State) (a : Word) (v : Byte),
    let u := s.atFetch
    let hl := u.pair .hl
    s.Executes → u.abandoned = false → u.env.cycles = [.undisturbed, .undisturbed, .hold [(a, v)]] →
    u.Populated u.pc → u.peek u.pc = 0x34#8 → u.Writable hl → u.Writable a →
    ∃ t, step s = .next t ∧ t.ctl = { u.ctl with hlda := true } ∧ t.peek a = v ∧ (∀ b, b ≠ a → t.peek b = u.peek b) ∧
      t.bus = [.memoryRead hl (u.peek hl), .opcodeFetch u.pc 0x34#8] ++ u.bus ∧
      (t.sample.env.resetIn = true →
        ∃ w, step t = .next w ∧ w.pc = 0x0000#16 ∧ w.ctl.hlda = false ∧ w.mem = t.mem ∧ w.bus = t.bus) ∧
      (t.sample.env.resetIn = false → t.sample.env.hold = false → t.sample.env.cycles = [] →
        ∃ w, step t = .next w ∧ w.ctl.hlda = false ∧ w.suspended = none ∧ w.pc = u.pc + 1 ∧
          w.peek hl = u.peek hl + 1 ∧ (∀ b, b ≠ hl → w.peek b = t.peek b) ∧
          w.flags.z = decide (w.peek hl = 0x00#8) ∧ w.regs = u.regs ∧ w.bus = .memoryWrite hl (u.peek hl + 1) :: t.bus)
end

