-- ==== Sys2Proof/Laws/Decode.lean ====
section
/-! SUPPORT. The small lemmas of the byte helpers, the operand codes and the length. -/

namespace Sys2Proof

@[simp] theorem ofBytes_hiByte_loByte (w : Word) : ofBytes (hiByte w) (loByte w) = w := by
  apply BitVec.eq_of_toNat_eq
  simp only [ofBytes, hiByte, loByte, BitVec.toNat_append, BitVec.extractLsb'_toNat, Nat.shiftRight_zero]
  rw [← Nat.shiftLeft_add_eq_or_of_lt (Nat.mod_lt _ (by decide)), Nat.shiftLeft_eq, Nat.shiftRight_eq_div_pow]
  have := w.isLt
  omega

@[simp] theorem hiByte_ofBytes (hi lo : Byte) : hiByte (ofBytes hi lo) = hi := by
  apply BitVec.eq_of_toNat_eq
  simp only [ofBytes, hiByte, BitVec.toNat_append, BitVec.extractLsb'_toNat]
  rw [← Nat.shiftLeft_add_eq_or_of_lt lo.isLt, Nat.shiftLeft_eq, Nat.shiftRight_eq_div_pow]
  have := hi.isLt
  have := lo.isLt
  omega

@[simp] theorem loByte_ofBytes (hi lo : Byte) : loByte (ofBytes hi lo) = lo := by
  apply BitVec.eq_of_toNat_eq
  simp only [ofBytes, loByte, BitVec.toNat_append, BitVec.extractLsb'_toNat, Nat.shiftRight_zero]
  rw [← Nat.shiftLeft_add_eq_or_of_lt lo.isLt, Nat.shiftLeft_eq]
  have := lo.isLt
  omega

theorem ofBytes_toNat (hi lo : Byte) : (ofBytes hi lo).toNat = 256 * hi.toNat + lo.toNat := by
  simp only [ofBytes, BitVec.toNat_append]
  rw [← Nat.shiftLeft_add_eq_or_of_lt lo.isLt, Nat.shiftLeft_eq]
  omega

@[simp] theorem Reg.ofCode_code (r : Reg) : Reg.ofCode r.code = some r := by cases r <;> rfl

@[simp] theorem Pair.ofCode_code (rp : Pair) : Pair.ofCode rp.code = rp := by cases rp <;> rfl

@[simp] theorem StackPair.ofCode_code (rp : StackPair) : StackPair.ofCode rp.code = some rp := by cases rp <;> rfl

/-- A length is 1, 2 or 3 (30_encoding.md R90). -/
theorem opcodeLength_range (b : Byte) : opcodeLength b = 1 ∨ opcodeLength b = 2 ∨ opcodeLength b = 3 := by
  unfold opcodeLength
  split_ifs <;> simp

end Sys2Proof
end

