-- ==== Sys2Proof/Laws/State.lean ====
section
/-! SUPPORT. One lemma per field per update of the state, so that no later proof unfolds an update. -/

namespace Sys2Proof.Machine

variable (s : State)

/-! ## setRegs -/

@[simp] theorem State.setRegs_regs (x : Regs) : (s.setRegs x).regs = x := rfl
@[simp] theorem State.setRegs_sp (x : Regs) : (s.setRegs x).sp = s.sp := rfl
@[simp] theorem State.setRegs_pc (x : Regs) : (s.setRegs x).pc = s.pc := rfl
@[simp] theorem State.setRegs_flags (x : Regs) : (s.setRegs x).flags = s.flags := rfl
@[simp] theorem State.setRegs_ctl (x : Regs) : (s.setRegs x).ctl = s.ctl := rfl
@[simp] theorem State.setRegs_mem (x : Regs) : (s.setRegs x).mem = s.mem := rfl
@[simp] theorem State.setRegs_memMap (x : Regs) : (s.setRegs x).memMap = s.memMap := rfl
@[simp] theorem State.setRegs_env (x : Regs) : (s.setRegs x).env = s.env := rfl
@[simp] theorem State.setRegs_inputs (x : Regs) : (s.setRegs x).inputs = s.inputs := rfl
@[simp] theorem State.setRegs_draws (x : Regs) : (s.setRegs x).draws = s.draws := rfl
@[simp] theorem State.setRegs_bus (x : Regs) : (s.setRegs x).bus = s.bus := rfl
@[simp] theorem State.setRegs_abandoned (x : Regs) : (s.setRegs x).abandoned = s.abandoned := rfl
@[simp] theorem State.setRegs_suspended (x : Regs) : (s.setRegs x).suspended = s.suspended := rfl

@[simp] theorem State.setRegs_kindAt (x : Regs) (a : Word) : (s.setRegs x).kindAt a = s.kindAt a := rfl
@[simp] theorem State.setRegs_peek (x : Regs) (a : Word) : (s.setRegs x).peek a = s.peek a := rfl

/-! ## setSp -/

@[simp] theorem State.setSp_regs (x : Word) : (s.setSp x).regs = s.regs := rfl
@[simp] theorem State.setSp_sp (x : Word) : (s.setSp x).sp = x := rfl
@[simp] theorem State.setSp_pc (x : Word) : (s.setSp x).pc = s.pc := rfl
@[simp] theorem State.setSp_flags (x : Word) : (s.setSp x).flags = s.flags := rfl
@[simp] theorem State.setSp_ctl (x : Word) : (s.setSp x).ctl = s.ctl := rfl
@[simp] theorem State.setSp_mem (x : Word) : (s.setSp x).mem = s.mem := rfl
@[simp] theorem State.setSp_memMap (x : Word) : (s.setSp x).memMap = s.memMap := rfl
@[simp] theorem State.setSp_env (x : Word) : (s.setSp x).env = s.env := rfl
@[simp] theorem State.setSp_inputs (x : Word) : (s.setSp x).inputs = s.inputs := rfl
@[simp] theorem State.setSp_draws (x : Word) : (s.setSp x).draws = s.draws := rfl
@[simp] theorem State.setSp_bus (x : Word) : (s.setSp x).bus = s.bus := rfl
@[simp] theorem State.setSp_abandoned (x : Word) : (s.setSp x).abandoned = s.abandoned := rfl
@[simp] theorem State.setSp_suspended (x : Word) : (s.setSp x).suspended = s.suspended := rfl

@[simp] theorem State.setSp_kindAt (x : Word) (a : Word) : (s.setSp x).kindAt a = s.kindAt a := rfl
@[simp] theorem State.setSp_peek (x : Word) (a : Word) : (s.setSp x).peek a = s.peek a := rfl

/-! ## setPc -/

@[simp] theorem State.setPc_regs (x : Word) : (s.setPc x).regs = s.regs := rfl
@[simp] theorem State.setPc_sp (x : Word) : (s.setPc x).sp = s.sp := rfl
@[simp] theorem State.setPc_pc (x : Word) : (s.setPc x).pc = x := rfl
@[simp] theorem State.setPc_flags (x : Word) : (s.setPc x).flags = s.flags := rfl
@[simp] theorem State.setPc_ctl (x : Word) : (s.setPc x).ctl = s.ctl := rfl
@[simp] theorem State.setPc_mem (x : Word) : (s.setPc x).mem = s.mem := rfl
@[simp] theorem State.setPc_memMap (x : Word) : (s.setPc x).memMap = s.memMap := rfl
@[simp] theorem State.setPc_env (x : Word) : (s.setPc x).env = s.env := rfl
@[simp] theorem State.setPc_inputs (x : Word) : (s.setPc x).inputs = s.inputs := rfl
@[simp] theorem State.setPc_draws (x : Word) : (s.setPc x).draws = s.draws := rfl
@[simp] theorem State.setPc_bus (x : Word) : (s.setPc x).bus = s.bus := rfl
@[simp] theorem State.setPc_abandoned (x : Word) : (s.setPc x).abandoned = s.abandoned := rfl
@[simp] theorem State.setPc_suspended (x : Word) : (s.setPc x).suspended = s.suspended := rfl

@[simp] theorem State.setPc_kindAt (x : Word) (a : Word) : (s.setPc x).kindAt a = s.kindAt a := rfl
@[simp] theorem State.setPc_peek (x : Word) (a : Word) : (s.setPc x).peek a = s.peek a := rfl

/-! ## setFlags -/

@[simp] theorem State.setFlags_regs (x : Flags) : (s.setFlags x).regs = s.regs := rfl
@[simp] theorem State.setFlags_sp (x : Flags) : (s.setFlags x).sp = s.sp := rfl
@[simp] theorem State.setFlags_pc (x : Flags) : (s.setFlags x).pc = s.pc := rfl
@[simp] theorem State.setFlags_flags (x : Flags) : (s.setFlags x).flags = x := rfl
@[simp] theorem State.setFlags_ctl (x : Flags) : (s.setFlags x).ctl = s.ctl := rfl
@[simp] theorem State.setFlags_mem (x : Flags) : (s.setFlags x).mem = s.mem := rfl
@[simp] theorem State.setFlags_memMap (x : Flags) : (s.setFlags x).memMap = s.memMap := rfl
@[simp] theorem State.setFlags_env (x : Flags) : (s.setFlags x).env = s.env := rfl
@[simp] theorem State.setFlags_inputs (x : Flags) : (s.setFlags x).inputs = s.inputs := rfl
@[simp] theorem State.setFlags_draws (x : Flags) : (s.setFlags x).draws = s.draws := rfl
@[simp] theorem State.setFlags_bus (x : Flags) : (s.setFlags x).bus = s.bus := rfl
@[simp] theorem State.setFlags_abandoned (x : Flags) : (s.setFlags x).abandoned = s.abandoned := rfl
@[simp] theorem State.setFlags_suspended (x : Flags) : (s.setFlags x).suspended = s.suspended := rfl

@[simp] theorem State.setFlags_kindAt (x : Flags) (a : Word) : (s.setFlags x).kindAt a = s.kindAt a := rfl
@[simp] theorem State.setFlags_peek (x : Flags) (a : Word) : (s.setFlags x).peek a = s.peek a := rfl

/-! ## setCtl -/

@[simp] theorem State.setCtl_regs (x : Control) : (s.setCtl x).regs = s.regs := rfl
@[simp] theorem State.setCtl_sp (x : Control) : (s.setCtl x).sp = s.sp := rfl
@[simp] theorem State.setCtl_pc (x : Control) : (s.setCtl x).pc = s.pc := rfl
@[simp] theorem State.setCtl_flags (x : Control) : (s.setCtl x).flags = s.flags := rfl
@[simp] theorem State.setCtl_ctl (x : Control) : (s.setCtl x).ctl = x := rfl
@[simp] theorem State.setCtl_mem (x : Control) : (s.setCtl x).mem = s.mem := rfl
@[simp] theorem State.setCtl_memMap (x : Control) : (s.setCtl x).memMap = s.memMap := rfl
@[simp] theorem State.setCtl_env (x : Control) : (s.setCtl x).env = s.env := rfl
@[simp] theorem State.setCtl_inputs (x : Control) : (s.setCtl x).inputs = s.inputs := rfl
@[simp] theorem State.setCtl_draws (x : Control) : (s.setCtl x).draws = s.draws := rfl
@[simp] theorem State.setCtl_bus (x : Control) : (s.setCtl x).bus = s.bus := rfl
@[simp] theorem State.setCtl_abandoned (x : Control) : (s.setCtl x).abandoned = s.abandoned := rfl
@[simp] theorem State.setCtl_suspended (x : Control) : (s.setCtl x).suspended = s.suspended := rfl

@[simp] theorem State.setCtl_kindAt (x : Control) (a : Word) : (s.setCtl x).kindAt a = s.kindAt a := rfl
@[simp] theorem State.setCtl_peek (x : Control) (a : Word) : (s.setCtl x).peek a = s.peek a := rfl

/-! ## setMem -/

@[simp] theorem State.setMem_regs (x : Memory) : (s.setMem x).regs = s.regs := rfl
@[simp] theorem State.setMem_sp (x : Memory) : (s.setMem x).sp = s.sp := rfl
@[simp] theorem State.setMem_pc (x : Memory) : (s.setMem x).pc = s.pc := rfl
@[simp] theorem State.setMem_flags (x : Memory) : (s.setMem x).flags = s.flags := rfl
@[simp] theorem State.setMem_ctl (x : Memory) : (s.setMem x).ctl = s.ctl := rfl
@[simp] theorem State.setMem_mem (x : Memory) : (s.setMem x).mem = x := rfl
@[simp] theorem State.setMem_memMap (x : Memory) : (s.setMem x).memMap = s.memMap := rfl
@[simp] theorem State.setMem_env (x : Memory) : (s.setMem x).env = s.env := rfl
@[simp] theorem State.setMem_inputs (x : Memory) : (s.setMem x).inputs = s.inputs := rfl
@[simp] theorem State.setMem_draws (x : Memory) : (s.setMem x).draws = s.draws := rfl
@[simp] theorem State.setMem_bus (x : Memory) : (s.setMem x).bus = s.bus := rfl
@[simp] theorem State.setMem_abandoned (x : Memory) : (s.setMem x).abandoned = s.abandoned := rfl
@[simp] theorem State.setMem_suspended (x : Memory) : (s.setMem x).suspended = s.suspended := rfl

@[simp] theorem State.setMem_kindAt (x : Memory) (a : Word) : (s.setMem x).kindAt a = s.kindAt a := rfl

/-! ## setEnv -/

@[simp] theorem State.setEnv_regs (x : Sample) : (s.setEnv x).regs = s.regs := rfl
@[simp] theorem State.setEnv_sp (x : Sample) : (s.setEnv x).sp = s.sp := rfl
@[simp] theorem State.setEnv_pc (x : Sample) : (s.setEnv x).pc = s.pc := rfl
@[simp] theorem State.setEnv_flags (x : Sample) : (s.setEnv x).flags = s.flags := rfl
@[simp] theorem State.setEnv_ctl (x : Sample) : (s.setEnv x).ctl = s.ctl := rfl
@[simp] theorem State.setEnv_mem (x : Sample) : (s.setEnv x).mem = s.mem := rfl
@[simp] theorem State.setEnv_memMap (x : Sample) : (s.setEnv x).memMap = s.memMap := rfl
@[simp] theorem State.setEnv_env (x : Sample) : (s.setEnv x).env = x := rfl
@[simp] theorem State.setEnv_inputs (x : Sample) : (s.setEnv x).inputs = s.inputs := rfl
@[simp] theorem State.setEnv_draws (x : Sample) : (s.setEnv x).draws = s.draws := rfl
@[simp] theorem State.setEnv_bus (x : Sample) : (s.setEnv x).bus = s.bus := rfl
@[simp] theorem State.setEnv_abandoned (x : Sample) : (s.setEnv x).abandoned = s.abandoned := rfl
@[simp] theorem State.setEnv_suspended (x : Sample) : (s.setEnv x).suspended = s.suspended := rfl

@[simp] theorem State.setEnv_kindAt (x : Sample) (a : Word) : (s.setEnv x).kindAt a = s.kindAt a := rfl
@[simp] theorem State.setEnv_peek (x : Sample) (a : Word) : (s.setEnv x).peek a = s.peek a := rfl

/-! ## setInputs -/

@[simp] theorem State.setInputs_regs (x : List Sample) : (s.setInputs x).regs = s.regs := rfl
@[simp] theorem State.setInputs_sp (x : List Sample) : (s.setInputs x).sp = s.sp := rfl
@[simp] theorem State.setInputs_pc (x : List Sample) : (s.setInputs x).pc = s.pc := rfl
@[simp] theorem State.setInputs_flags (x : List Sample) : (s.setInputs x).flags = s.flags := rfl
@[simp] theorem State.setInputs_ctl (x : List Sample) : (s.setInputs x).ctl = s.ctl := rfl
@[simp] theorem State.setInputs_mem (x : List Sample) : (s.setInputs x).mem = s.mem := rfl
@[simp] theorem State.setInputs_memMap (x : List Sample) : (s.setInputs x).memMap = s.memMap := rfl
@[simp] theorem State.setInputs_env (x : List Sample) : (s.setInputs x).env = s.env := rfl
@[simp] theorem State.setInputs_inputs (x : List Sample) : (s.setInputs x).inputs = x := rfl
@[simp] theorem State.setInputs_draws (x : List Sample) : (s.setInputs x).draws = s.draws := rfl
@[simp] theorem State.setInputs_bus (x : List Sample) : (s.setInputs x).bus = s.bus := rfl
@[simp] theorem State.setInputs_abandoned (x : List Sample) : (s.setInputs x).abandoned = s.abandoned := rfl
@[simp] theorem State.setInputs_suspended (x : List Sample) : (s.setInputs x).suspended = s.suspended := rfl

@[simp] theorem State.setInputs_kindAt (x : List Sample) (a : Word) : (s.setInputs x).kindAt a = s.kindAt a := rfl
@[simp] theorem State.setInputs_peek (x : List Sample) (a : Word) : (s.setInputs x).peek a = s.peek a := rfl

/-! ## setDraws -/

@[simp] theorem State.setDraws_regs (x : Nat) : (s.setDraws x).regs = s.regs := rfl
@[simp] theorem State.setDraws_sp (x : Nat) : (s.setDraws x).sp = s.sp := rfl
@[simp] theorem State.setDraws_pc (x : Nat) : (s.setDraws x).pc = s.pc := rfl
@[simp] theorem State.setDraws_flags (x : Nat) : (s.setDraws x).flags = s.flags := rfl
@[simp] theorem State.setDraws_ctl (x : Nat) : (s.setDraws x).ctl = s.ctl := rfl
@[simp] theorem State.setDraws_mem (x : Nat) : (s.setDraws x).mem = s.mem := rfl
@[simp] theorem State.setDraws_memMap (x : Nat) : (s.setDraws x).memMap = s.memMap := rfl
@[simp] theorem State.setDraws_env (x : Nat) : (s.setDraws x).env = s.env := rfl
@[simp] theorem State.setDraws_inputs (x : Nat) : (s.setDraws x).inputs = s.inputs := rfl
@[simp] theorem State.setDraws_draws (x : Nat) : (s.setDraws x).draws = x := rfl
@[simp] theorem State.setDraws_bus (x : Nat) : (s.setDraws x).bus = s.bus := rfl
@[simp] theorem State.setDraws_abandoned (x : Nat) : (s.setDraws x).abandoned = s.abandoned := rfl
@[simp] theorem State.setDraws_suspended (x : Nat) : (s.setDraws x).suspended = s.suspended := rfl

@[simp] theorem State.setDraws_kindAt (x : Nat) (a : Word) : (s.setDraws x).kindAt a = s.kindAt a := rfl
@[simp] theorem State.setDraws_peek (x : Nat) (a : Word) : (s.setDraws x).peek a = s.peek a := rfl

/-! ## setBus -/

@[simp] theorem State.setBus_regs (x : List BusCycle) : (s.setBus x).regs = s.regs := rfl
@[simp] theorem State.setBus_sp (x : List BusCycle) : (s.setBus x).sp = s.sp := rfl
@[simp] theorem State.setBus_pc (x : List BusCycle) : (s.setBus x).pc = s.pc := rfl
@[simp] theorem State.setBus_flags (x : List BusCycle) : (s.setBus x).flags = s.flags := rfl
@[simp] theorem State.setBus_ctl (x : List BusCycle) : (s.setBus x).ctl = s.ctl := rfl
@[simp] theorem State.setBus_mem (x : List BusCycle) : (s.setBus x).mem = s.mem := rfl
@[simp] theorem State.setBus_memMap (x : List BusCycle) : (s.setBus x).memMap = s.memMap := rfl
@[simp] theorem State.setBus_env (x : List BusCycle) : (s.setBus x).env = s.env := rfl
@[simp] theorem State.setBus_inputs (x : List BusCycle) : (s.setBus x).inputs = s.inputs := rfl
@[simp] theorem State.setBus_draws (x : List BusCycle) : (s.setBus x).draws = s.draws := rfl
@[simp] theorem State.setBus_bus (x : List BusCycle) : (s.setBus x).bus = x := rfl
@[simp] theorem State.setBus_abandoned (x : List BusCycle) : (s.setBus x).abandoned = s.abandoned := rfl
@[simp] theorem State.setBus_suspended (x : List BusCycle) : (s.setBus x).suspended = s.suspended := rfl

@[simp] theorem State.setBus_kindAt (x : List BusCycle) (a : Word) : (s.setBus x).kindAt a = s.kindAt a := rfl
@[simp] theorem State.setBus_peek (x : List BusCycle) (a : Word) : (s.setBus x).peek a = s.peek a := rfl

/-! ## setAbandoned -/

@[simp] theorem State.setAbandoned_regs (x : Bool) : (s.setAbandoned x).regs = s.regs := rfl
@[simp] theorem State.setAbandoned_sp (x : Bool) : (s.setAbandoned x).sp = s.sp := rfl
@[simp] theorem State.setAbandoned_pc (x : Bool) : (s.setAbandoned x).pc = s.pc := rfl
@[simp] theorem State.setAbandoned_flags (x : Bool) : (s.setAbandoned x).flags = s.flags := rfl
@[simp] theorem State.setAbandoned_ctl (x : Bool) : (s.setAbandoned x).ctl = s.ctl := rfl
@[simp] theorem State.setAbandoned_mem (x : Bool) : (s.setAbandoned x).mem = s.mem := rfl
@[simp] theorem State.setAbandoned_memMap (x : Bool) : (s.setAbandoned x).memMap = s.memMap := rfl
@[simp] theorem State.setAbandoned_env (x : Bool) : (s.setAbandoned x).env = s.env := rfl
@[simp] theorem State.setAbandoned_inputs (x : Bool) : (s.setAbandoned x).inputs = s.inputs := rfl
@[simp] theorem State.setAbandoned_draws (x : Bool) : (s.setAbandoned x).draws = s.draws := rfl
@[simp] theorem State.setAbandoned_bus (x : Bool) : (s.setAbandoned x).bus = s.bus := rfl
@[simp] theorem State.setAbandoned_abandoned (x : Bool) : (s.setAbandoned x).abandoned = x := rfl
@[simp] theorem State.setAbandoned_suspended (x : Bool) : (s.setAbandoned x).suspended = s.suspended := rfl

@[simp] theorem State.setAbandoned_kindAt (x : Bool) (a : Word) : (s.setAbandoned x).kindAt a = s.kindAt a := rfl
@[simp] theorem State.setAbandoned_peek (x : Bool) (a : Word) : (s.setAbandoned x).peek a = s.peek a := rfl

/-! ## setSuspended -/

@[simp] theorem State.setSuspended_regs (x : Option Suspended) : (s.setSuspended x).regs = s.regs := rfl
@[simp] theorem State.setSuspended_sp (x : Option Suspended) : (s.setSuspended x).sp = s.sp := rfl
@[simp] theorem State.setSuspended_pc (x : Option Suspended) : (s.setSuspended x).pc = s.pc := rfl
@[simp] theorem State.setSuspended_flags (x : Option Suspended) : (s.setSuspended x).flags = s.flags := rfl
@[simp] theorem State.setSuspended_ctl (x : Option Suspended) : (s.setSuspended x).ctl = s.ctl := rfl
@[simp] theorem State.setSuspended_mem (x : Option Suspended) : (s.setSuspended x).mem = s.mem := rfl
@[simp] theorem State.setSuspended_memMap (x : Option Suspended) : (s.setSuspended x).memMap = s.memMap := rfl
@[simp] theorem State.setSuspended_env (x : Option Suspended) : (s.setSuspended x).env = s.env := rfl
@[simp] theorem State.setSuspended_inputs (x : Option Suspended) : (s.setSuspended x).inputs = s.inputs := rfl
@[simp] theorem State.setSuspended_draws (x : Option Suspended) : (s.setSuspended x).draws = s.draws := rfl
@[simp] theorem State.setSuspended_bus (x : Option Suspended) : (s.setSuspended x).bus = s.bus := rfl
@[simp] theorem State.setSuspended_abandoned (x : Option Suspended) : (s.setSuspended x).abandoned = s.abandoned := rfl
@[simp] theorem State.setSuspended_suspended (x : Option Suspended) : (s.setSuspended x).suspended = x := rfl

@[simp] theorem State.setSuspended_kindAt (x : Option Suspended) (a : Word) : (s.setSuspended x).kindAt a = s.kindAt a := rfl
@[simp] theorem State.setSuspended_peek (x : Option Suspended) (a : Word) : (s.setSuspended x).peek a = s.peek a := rfl

end Sys2Proof.Machine
end

