-- ==== Sys2Proof/Laws/Memory.lean ====
section
/-! SUPPORT. The laws of memory: what is written is read, nothing else moves, and the canonical form is kept. The first two
hold of every list of cells, in canonical form or not. -/

namespace Sys2Proof.Machine

theorem Memory.read_remove_same (m : Memory) (a : Nat) : (m.remove a).read a = Config.unlistedByte := by
  induction m with
  | nil => rfl
  | cons c m ih =>
    by_cases h : c.1 = a <;> simp [Memory.remove, Memory.read, h, ih]

theorem Memory.read_remove_other (m : Memory) {a b : Nat} (h : b ≠ a) : (m.remove a).read b = m.read b := by
  induction m with
  | nil => rfl
  | cons c m ih =>
    by_cases hk : c.1 = a
    · simp [Memory.remove, Memory.read, hk, ih, Ne.symm h]
    · simp [Memory.remove, Memory.read, hk, ih]

theorem Memory.read_insert_same (m : Memory) (a : Nat) (v : Byte) (h : ∀ c ∈ m, c.1 ≠ a) :
    (m.insert a v).read a = v := by
  induction m with
  | nil => simp [Memory.insert, Memory.read]
  | cons c m ih =>
    obtain ⟨k, w⟩ := c
    have hk : k ≠ a := h (k, w) (by simp)
    unfold Memory.insert
    split
    · simp [Memory.read]
    · simpa [Memory.read, hk] using ih (fun c hc => h c (by simp [hc]))

theorem Memory.read_insert_other (m : Memory) {a b : Nat} (v : Byte) (h : b ≠ a) :
    (m.insert a v).read b = m.read b := by
  induction m with
  | nil => simp [Memory.insert, Memory.read, Ne.symm h]
  | cons c m ih =>
    obtain ⟨k, w⟩ := c
    unfold Memory.insert
    split
    · simp [Memory.read, Ne.symm h]
    · simp only [Memory.read, ih]

theorem Memory.ne_of_mem_remove {m : Memory} {a : Nat} {c : Host.Cell} (h : c ∈ m.remove a) : c.1 ≠ a := by
  induction m with
  | nil => simp [Memory.remove] at h
  | cons x m ih =>
    by_cases hk : x.1 = a
    · exact ih (by simpa [Memory.remove, hk] using h)
    · simp only [Memory.remove, hk, if_false, List.mem_cons] at h
      rcases h with rfl | h
      · exact hk
      · exact ih h

@[simp] theorem Memory.read_write_same (m : Memory) (a : Nat) (v : Byte) : (m.write a v).read a = v := by
  unfold Memory.write
  split
  · rw [Memory.read_remove_same, ‹v = _›]
  · exact Memory.read_insert_same _ _ _ fun c hc => Memory.ne_of_mem_remove hc

theorem Memory.read_write_other (m : Memory) {a b : Nat} (v : Byte) (h : b ≠ a) :
    (m.write a v).read b = m.read b := by
  unfold Memory.write
  split
  · exact Memory.read_remove_other m h
  · rw [Memory.read_insert_other _ _ h, Memory.read_remove_other m h]

/-! ## The canonical form -/

theorem Memory.wfFrom_mono {m : Memory} {lo lo' : Nat} (h : lo' ≤ lo) (hm : Memory.wfFrom lo m = true) :
    Memory.wfFrom lo' m = true := by
  cases m with
  | nil => rfl
  | cons c m =>
    obtain ⟨k, v⟩ := c
    simp only [Memory.wfFrom, Bool.and_eq_true, decide_eq_true_eq] at hm ⊢
    exact ⟨⟨⟨h.trans hm.1.1.1, hm.1.1.2⟩, hm.1.2⟩, hm.2⟩

theorem Memory.wfFrom_remove {m : Memory} {lo : Nat} (a : Nat) (hm : Memory.wfFrom lo m = true) :
    Memory.wfFrom lo (m.remove a) = true := by
  induction m generalizing lo with
  | nil => rfl
  | cons c m ih =>
    obtain ⟨k, v⟩ := c
    simp only [Memory.wfFrom, Bool.and_eq_true, decide_eq_true_eq] at hm
    by_cases hk : k = a
    · simpa [Memory.remove, hk] using ih (Memory.wfFrom_mono (by omega : lo ≤ k + 1) hm.2)
    · simp only [Memory.remove, hk, if_false, Memory.wfFrom, Bool.and_eq_true, decide_eq_true_eq]
      exact ⟨hm.1, ih hm.2⟩

theorem Memory.wfFrom_insert {m : Memory} {lo a : Nat} {v : Byte} (hm : Memory.wfFrom lo m = true) (hlo : lo ≤ a)
    (ha : a < Config.memorySize) (hv : v ≠ Config.unlistedByte) (hn : ∀ c ∈ m, c.1 ≠ a) :
    Memory.wfFrom lo (m.insert a v) = true := by
  induction m generalizing lo with
  | nil => simp [Memory.insert, Memory.wfFrom, hlo, ha, hv]
  | cons c m ih =>
    obtain ⟨k, w⟩ := c
    have hk : k ≠ a := hn (k, w) (by simp)
    unfold Memory.insert
    simp only [Memory.wfFrom, Bool.and_eq_true, decide_eq_true_eq] at hm
    split
    · rename_i hlt
      simp only [Memory.wfFrom, Bool.and_eq_true, decide_eq_true_eq]
      refine ⟨⟨⟨hlo, ha⟩, by simpa using hv⟩, ⟨⟨⟨by omega, hm.1.1.2⟩, hm.1.2⟩, hm.2⟩⟩
    · rename_i hge
      simp only [Memory.wfFrom, Bool.and_eq_true, decide_eq_true_eq]
      exact ⟨hm.1, ih hm.2 (by omega) (fun c hc => hn c (by simp [hc]))⟩

/-- Writing a byte inside the space keeps the canonical form. -/
theorem Memory.wf_write {m : Memory} {a : Nat} (v : Byte) (hm : m.wf = true) (ha : a < Config.memorySize) :
    (m.write a v).wf = true := by
  unfold Memory.write Memory.wf
  split
  · exact Memory.wfFrom_remove a hm
  · rename_i hv
    exact Memory.wfFrom_insert (Memory.wfFrom_remove a hm) (Nat.zero_le a) ha hv
      fun c hc => Memory.ne_of_mem_remove hc

/-- The memory of the reset state is in canonical form. -/
theorem Memory.wf_reset : State.reset.mem.wf = true := rfl

theorem word_lt_memorySize (a : Word) : a.toNat < Config.memorySize := a.isLt

@[simp] theorem State.peek_setMem_write_same (s : State) (a : Word) (v : Byte) :
    (s.setMem (s.mem.write a.toNat v)).peek a = v := Memory.read_write_same _ _ _

theorem State.peek_setMem_write_other (s : State) {a b : Word} (v : Byte) (h : b ≠ a) :
    (s.setMem (s.mem.write a.toNat v)).peek b = s.peek b :=
  Memory.read_write_other _ _ fun hn => h (BitVec.eq_of_toNat_eq hn)

end Sys2Proof.Machine
end

