-- ==== Sys2Proof/Laws/Ops.lean ====
section
/-! SUPPORT. What each shared operation can do, said once: which parts of the state it keeps, that it keeps memory in
canonical form, and its whole effect where nobody disturbs it. -/

namespace Sys2Proof.Machine

variable {s t u : State}

/-! ## What no machine cycle touches -/

/-- Registers, flags, control state, the memory map and the samples to come are the same. -/
structure CoreKept (s t : State) : Prop where
  regs : t.regs = s.regs
  sp : t.sp = s.sp
  pc : t.pc = s.pc
  flags : t.flags = s.flags
  ctl : t.ctl = s.ctl
  memMap : t.memMap = s.memMap
  inputs : t.inputs = s.inputs

theorem CoreKept.refl (s : State) : CoreKept s s := ⟨rfl, rfl, rfl, rfl, rfl, rfl, rfl⟩

theorem CoreKept.trans (h : CoreKept s t) (k : CoreKept t u) : CoreKept s u :=
  ⟨k.regs.trans h.regs, k.sp.trans h.sp, k.pc.trans h.pc, k.flags.trans h.flags, k.ctl.trans h.ctl,
    k.memMap.trans h.memMap, k.inputs.trans h.inputs⟩

theorem kindAt_of_memMap (h : t.memMap = s.memMap) (a : Word) : t.kindAt a = s.kindAt a := by
  simp only [State.kindAt, h]

theorem memorySystemRead_core (s : State) (a : Word) : CoreKept s (s.memorySystemRead a).2 := by
  unfold State.memorySystemRead
  split
  · exact .refl s
  · exact .refl s
  · split <;> exact ⟨rfl, rfl, rfl, rfl, rfl, rfl, rfl⟩
  · exact ⟨rfl, rfl, rfl, rfl, rfl, rfl, rfl⟩

theorem memorySystemWrite_core (s : State) (a : Word) (v : Byte) : CoreKept s (s.memorySystemWrite a v) := by
  unfold State.memorySystemWrite
  split <;> exact ⟨rfl, rfl, rfl, rfl, rfl, rfl, rfl⟩

theorem masterWrites_core (s : State) (ws : List (Word × Byte)) : CoreKept s (s.masterWrites ws) := by
  induction ws generalizing s with
  | nil => exact .refl s
  | cons w ws ih => exact (memorySystemWrite_core s w.1 w.2).trans (ih _)

theorem beforeCycle_core (s : State) : CoreKept s s.beforeCycle := by
  unfold State.beforeCycle
  split
  · exact .refl s
  · split
    · exact .refl s
    · exact ⟨rfl, rfl, rfl, rfl, rfl, rfl, rfl⟩
    · rename_i ws es _
      have k := masterWrites_core (s.setEnv { s.env with cycles := es, hold := true }) ws
      exact ⟨k.regs, k.sp, k.pc, k.flags, k.ctl, k.memMap, k.inputs⟩
    · exact ⟨rfl, rfl, rfl, rfl, rfl, rfl, rfl⟩

theorem madeOr_cases (s : State) (now : Byte × State) :
    s.madeOr now = now ∨ ∃ p c cs, s.suspended = some p ∧ p.made = c :: cs ∧
      s.madeOr now = (c.data, s.setSuspended (some { p with made := cs })) := by
  unfold State.madeOr
  split
  · exact .inl rfl
  · rename_i p hp
    split
    · exact .inl rfl
    · exact .inr ⟨p, _, _, hp, ‹_›, rfl⟩

theorem madeOr_core {now : Byte × State} (h : CoreKept s now.2) : CoreKept s (s.madeOr now).2 := by
  rcases madeOr_cases s now with e | ⟨_, _, _, -, -, e⟩
  · rwa [e]
  · rw [e]; exact ⟨rfl, rfl, rfl, rfl, rfl, rfl, rfl⟩

theorem record_core (s : State) (c : BusCycle) : CoreKept s (s.record c) := by
  unfold State.record
  split
  · exact .refl s
  · exact ⟨rfl, rfl, rfl, rfl, rfl, rfl, rfl⟩

theorem readCycle_core (s : State) (kind : Word → Byte → BusCycle) (a : Word) : CoreKept s (s.readCycle kind a).2 :=
  madeOr_core (((beforeCycle_core s).trans (memorySystemRead_core _ a)).trans (record_core _ _))

theorem memRead_core (s : State) (a : Word) : CoreKept s (s.memRead a).2 := readCycle_core s _ a

theorem memWrite_core (s : State) (a : Word) (v : Byte) : CoreKept s (s.memWrite a v) := by
  refine madeOr_core ?_
  dsimp only
  split
  · exact beforeCycle_core s
  · exact ((beforeCycle_core s).trans (memorySystemWrite_core _ a v)).trans (record_core _ _)

theorem ioRead_core (s : State) (p : Byte) : CoreKept s (s.ioRead p).2 := by
  refine madeOr_core ((beforeCycle_core s).trans (CoreKept.trans ?_ (record_core _ _)))
  split <;> exact ⟨rfl, rfl, rfl, rfl, rfl, rfl, rfl⟩

theorem ioWrite_core (s : State) (p v : Byte) : CoreKept s (s.ioWrite p v) :=
  madeOr_core ((beforeCycle_core s).trans (record_core _ _))

theorem intaRead_core (s : State) (v : Byte) : CoreKept s (s.intaRead v).2 :=
  madeOr_core ((beforeCycle_core s).trans (record_core _ _))

@[simp] theorem State.readCycle_regs (s : State) (kind : Word → Byte → BusCycle) (a : Word) : (s.readCycle kind a).2.regs = s.regs := (readCycle_core s kind a).regs
@[simp] theorem State.readCycle_sp (s : State) (kind : Word → Byte → BusCycle) (a : Word) : (s.readCycle kind a).2.sp = s.sp := (readCycle_core s kind a).sp
@[simp] theorem State.readCycle_pc (s : State) (kind : Word → Byte → BusCycle) (a : Word) : (s.readCycle kind a).2.pc = s.pc := (readCycle_core s kind a).pc
@[simp] theorem State.readCycle_flags (s : State) (kind : Word → Byte → BusCycle) (a : Word) : (s.readCycle kind a).2.flags = s.flags := (readCycle_core s kind a).flags
@[simp] theorem State.readCycle_ctl (s : State) (kind : Word → Byte → BusCycle) (a : Word) : (s.readCycle kind a).2.ctl = s.ctl := (readCycle_core s kind a).ctl
@[simp] theorem State.readCycle_memMap (s : State) (kind : Word → Byte → BusCycle) (a : Word) : (s.readCycle kind a).2.memMap = s.memMap := (readCycle_core s kind a).memMap
@[simp] theorem State.readCycle_inputs (s : State) (kind : Word → Byte → BusCycle) (a : Word) : (s.readCycle kind a).2.inputs = s.inputs := (readCycle_core s kind a).inputs
@[simp] theorem State.readCycle_kindAt (s : State) (kind : Word → Byte → BusCycle) (a : Word) (b : Word) : (s.readCycle kind a).2.kindAt b = s.kindAt b :=
  kindAt_of_memMap (readCycle_core s kind a).memMap b

@[simp] theorem State.memRead_regs (s : State) (a : Word) : (s.memRead a).2.regs = s.regs := (memRead_core s a).regs
@[simp] theorem State.memRead_sp (s : State) (a : Word) : (s.memRead a).2.sp = s.sp := (memRead_core s a).sp
@[simp] theorem State.memRead_pc (s : State) (a : Word) : (s.memRead a).2.pc = s.pc := (memRead_core s a).pc
@[simp] theorem State.memRead_flags (s : State) (a : Word) : (s.memRead a).2.flags = s.flags := (memRead_core s a).flags
@[simp] theorem State.memRead_ctl (s : State) (a : Word) : (s.memRead a).2.ctl = s.ctl := (memRead_core s a).ctl
@[simp] theorem State.memRead_memMap (s : State) (a : Word) : (s.memRead a).2.memMap = s.memMap := (memRead_core s a).memMap
@[simp] theorem State.memRead_inputs (s : State) (a : Word) : (s.memRead a).2.inputs = s.inputs := (memRead_core s a).inputs
@[simp] theorem State.memRead_kindAt (s : State) (a : Word) (b : Word) : (s.memRead a).2.kindAt b = s.kindAt b :=
  kindAt_of_memMap (memRead_core s a).memMap b

@[simp] theorem State.memWrite_regs (s : State) (a : Word) (v : Byte) : (s.memWrite a v).regs = s.regs := (memWrite_core s a v).regs
@[simp] theorem State.memWrite_sp (s : State) (a : Word) (v : Byte) : (s.memWrite a v).sp = s.sp := (memWrite_core s a v).sp
@[simp] theorem State.memWrite_pc (s : State) (a : Word) (v : Byte) : (s.memWrite a v).pc = s.pc := (memWrite_core s a v).pc
@[simp] theorem State.memWrite_flags (s : State) (a : Word) (v : Byte) : (s.memWrite a v).flags = s.flags := (memWrite_core s a v).flags
@[simp] theorem State.memWrite_ctl (s : State) (a : Word) (v : Byte) : (s.memWrite a v).ctl = s.ctl := (memWrite_core s a v).ctl
@[simp] theorem State.memWrite_memMap (s : State) (a : Word) (v : Byte) : (s.memWrite a v).memMap = s.memMap := (memWrite_core s a v).memMap
@[simp] theorem State.memWrite_inputs (s : State) (a : Word) (v : Byte) : (s.memWrite a v).inputs = s.inputs := (memWrite_core s a v).inputs
@[simp] theorem State.memWrite_kindAt (s : State) (a : Word) (v : Byte) (b : Word) : (s.memWrite a v).kindAt b = s.kindAt b :=
  kindAt_of_memMap (memWrite_core s a v).memMap b

@[simp] theorem State.ioRead_regs (s : State) (p : Byte) : (s.ioRead p).2.regs = s.regs := (ioRead_core s p).regs
@[simp] theorem State.ioRead_sp (s : State) (p : Byte) : (s.ioRead p).2.sp = s.sp := (ioRead_core s p).sp
@[simp] theorem State.ioRead_pc (s : State) (p : Byte) : (s.ioRead p).2.pc = s.pc := (ioRead_core s p).pc
@[simp] theorem State.ioRead_flags (s : State) (p : Byte) : (s.ioRead p).2.flags = s.flags := (ioRead_core s p).flags
@[simp] theorem State.ioRead_ctl (s : State) (p : Byte) : (s.ioRead p).2.ctl = s.ctl := (ioRead_core s p).ctl
@[simp] theorem State.ioRead_memMap (s : State) (p : Byte) : (s.ioRead p).2.memMap = s.memMap := (ioRead_core s p).memMap
@[simp] theorem State.ioRead_inputs (s : State) (p : Byte) : (s.ioRead p).2.inputs = s.inputs := (ioRead_core s p).inputs
@[simp] theorem State.ioRead_kindAt (s : State) (p : Byte) (b : Word) : (s.ioRead p).2.kindAt b = s.kindAt b :=
  kindAt_of_memMap (ioRead_core s p).memMap b

@[simp] theorem State.ioWrite_regs (s : State) (p v : Byte) : (s.ioWrite p v).regs = s.regs := (ioWrite_core s p v).regs
@[simp] theorem State.ioWrite_sp (s : State) (p v : Byte) : (s.ioWrite p v).sp = s.sp := (ioWrite_core s p v).sp
@[simp] theorem State.ioWrite_pc (s : State) (p v : Byte) : (s.ioWrite p v).pc = s.pc := (ioWrite_core s p v).pc
@[simp] theorem State.ioWrite_flags (s : State) (p v : Byte) : (s.ioWrite p v).flags = s.flags := (ioWrite_core s p v).flags
@[simp] theorem State.ioWrite_ctl (s : State) (p v : Byte) : (s.ioWrite p v).ctl = s.ctl := (ioWrite_core s p v).ctl
@[simp] theorem State.ioWrite_memMap (s : State) (p v : Byte) : (s.ioWrite p v).memMap = s.memMap := (ioWrite_core s p v).memMap
@[simp] theorem State.ioWrite_inputs (s : State) (p v : Byte) : (s.ioWrite p v).inputs = s.inputs := (ioWrite_core s p v).inputs
@[simp] theorem State.ioWrite_kindAt (s : State) (p v : Byte) (b : Word) : (s.ioWrite p v).kindAt b = s.kindAt b :=
  kindAt_of_memMap (ioWrite_core s p v).memMap b

@[simp] theorem State.intaRead_regs (s : State) (v : Byte) : (s.intaRead v).2.regs = s.regs := (intaRead_core s v).regs
@[simp] theorem State.intaRead_sp (s : State) (v : Byte) : (s.intaRead v).2.sp = s.sp := (intaRead_core s v).sp
@[simp] theorem State.intaRead_pc (s : State) (v : Byte) : (s.intaRead v).2.pc = s.pc := (intaRead_core s v).pc
@[simp] theorem State.intaRead_flags (s : State) (v : Byte) : (s.intaRead v).2.flags = s.flags := (intaRead_core s v).flags
@[simp] theorem State.intaRead_ctl (s : State) (v : Byte) : (s.intaRead v).2.ctl = s.ctl := (intaRead_core s v).ctl
@[simp] theorem State.intaRead_memMap (s : State) (v : Byte) : (s.intaRead v).2.memMap = s.memMap := (intaRead_core s v).memMap
@[simp] theorem State.intaRead_inputs (s : State) (v : Byte) : (s.intaRead v).2.inputs = s.inputs := (intaRead_core s v).inputs
@[simp] theorem State.intaRead_kindAt (s : State) (v : Byte) (b : Word) : (s.intaRead v).2.kindAt b = s.kindAt b :=
  kindAt_of_memMap (intaRead_core s v).memMap b

/-! ## The canonical form is kept -/

theorem memorySystemRead_mem (s : State) (a : Word) : (s.memorySystemRead a).2.mem = s.mem := by
  unfold State.memorySystemRead
  split
  · rfl
  · rfl
  · split <;> rfl
  · rfl

theorem memorySystemWrite_wf (a : Word) (v : Byte) (h : s.mem.wf = true) : (s.memorySystemWrite a v).mem.wf = true := by
  unfold State.memorySystemWrite
  split
  · exact Memory.wf_write v h (word_lt_memorySize a)
  all_goals exact h

theorem masterWrites_wf (ws : List (Word × Byte)) (h : s.mem.wf = true) : (s.masterWrites ws).mem.wf = true := by
  induction ws generalizing s with
  | nil => exact h
  | cons w ws ih => exact ih (memorySystemWrite_wf w.1 w.2 h)

theorem beforeCycle_wf (h : s.mem.wf = true) : s.beforeCycle.mem.wf = true := by
  unfold State.beforeCycle
  split
  · exact h
  · split
    · exact h
    · exact h
    · exact masterWrites_wf _ h
    · exact h

theorem record_mem (s : State) (c : BusCycle) : (s.record c).mem = s.mem := by
  unfold State.record
  split <;> rfl

theorem madeOr_wf {now : Byte × State} (h : s.mem.wf = true) (k : now.2.mem.wf = true) :
    (s.madeOr now).2.mem.wf = true := by
  rcases madeOr_cases s now with e | ⟨_, _, _, -, -, e⟩
  · rwa [e]
  · rw [e]; exact h

theorem readCycle_wf (kind : Word → Byte → BusCycle) (a : Word) (h : s.mem.wf = true) :
    (s.readCycle kind a).2.mem.wf = true := by
  refine madeOr_wf h ?_
  simp only [record_mem, memorySystemRead_mem]
  exact beforeCycle_wf h

theorem memRead_wf (a : Word) (h : s.mem.wf = true) : (s.memRead a).2.mem.wf = true := readCycle_wf _ a h

theorem memWrite_wf (a : Word) (v : Byte) (h : s.mem.wf = true) : (s.memWrite a v).mem.wf = true := by
  refine madeOr_wf h ?_
  dsimp only
  split
  · exact beforeCycle_wf h
  · rw [record_mem]
    exact memorySystemWrite_wf a v (beforeCycle_wf h)

theorem ioRead_wf (p : Byte) (h : s.mem.wf = true) : (s.ioRead p).2.mem.wf = true := by
  refine madeOr_wf h ?_
  simp only [record_mem]
  split <;> exact beforeCycle_wf h

theorem ioWrite_wf (p v : Byte) (h : s.mem.wf = true) : (s.ioWrite p v).mem.wf = true := by
  refine madeOr_wf h ?_
  simp only [record_mem]
  exact beforeCycle_wf h

theorem intaRead_wf (v : Byte) (h : s.mem.wf = true) : (s.intaRead v).2.mem.wf = true := by
  refine madeOr_wf h ?_
  simp only [record_mem]
  exact beforeCycle_wf h

theorem push16_wf (v : Word) (h : s.mem.wf = true) : (s.push16 v).mem.wf = true := memWrite_wf _ _ (memWrite_wf _ _ h)

theorem pop16_wf (h : s.mem.wf = true) : s.pop16.2.mem.wf = true := memRead_wf _ (memRead_wf _ h)

theorem callTo_wf (a : Word) (h : s.mem.wf = true) : (s.callTo a).mem.wf = true := push16_wf _ h

theorem popPc_wf (h : s.mem.wf = true) : s.popPc.mem.wf = true := pop16_wf h

/-! ## The stack operations -/

@[simp] theorem State.push16_sp (s : State) (v : Word) : (s.push16 v).sp = s.sp - 2 := rfl
@[simp] theorem State.push16_regs (s : State) (v : Word) : (s.push16 v).regs = s.regs := by simp [State.push16]
@[simp] theorem State.push16_pc (s : State) (v : Word) : (s.push16 v).pc = s.pc := by simp [State.push16]
@[simp] theorem State.push16_flags (s : State) (v : Word) : (s.push16 v).flags = s.flags := by simp [State.push16]
@[simp] theorem State.push16_ctl (s : State) (v : Word) : (s.push16 v).ctl = s.ctl := by simp [State.push16]
@[simp] theorem State.push16_memMap (s : State) (v : Word) : (s.push16 v).memMap = s.memMap := by simp [State.push16]
@[simp] theorem State.pop16_sp (s : State) : s.pop16.2.sp = s.sp + 2 := rfl
@[simp] theorem State.pop16_regs (s : State) : s.pop16.2.regs = s.regs := by simp [State.pop16]
@[simp] theorem State.pop16_pc (s : State) : s.pop16.2.pc = s.pc := by simp [State.pop16]
@[simp] theorem State.pop16_flags (s : State) : s.pop16.2.flags = s.flags := by simp [State.pop16]
@[simp] theorem State.pop16_ctl (s : State) : s.pop16.2.ctl = s.ctl := by simp [State.pop16]
@[simp] theorem State.pop16_memMap (s : State) : s.pop16.2.memMap = s.memMap := by simp [State.pop16]

/-! ## What can happen before a cycle -/

theorem beforeCycle_undisturbed {es : List CycleEvent} (h : s.abandoned = false) (hc : s.env.cycles = .undisturbed :: es) :
    s.beforeCycle = s.setEnv { s.env with cycles := es } := by simp [State.beforeCycle, h, hc]

theorem beforeCycle_hold {ws : List (Word × Byte)} {es : List CycleEvent} (h : s.abandoned = false)
    (hc : s.env.cycles = .hold ws :: es) :
    s.beforeCycle = ((s.setEnv { s.env with cycles := es, hold := true }).masterWrites ws).setAbandoned true := by
  simp [State.beforeCycle, h, hc]

theorem beforeCycle_resetIn {es : List CycleEvent} (h : s.abandoned = false) (hc : s.env.cycles = .resetIn :: es) :
    s.beforeCycle = (s.setEnv { s.env with cycles := es, resetIn := true }).setAbandoned true := by
  simp [State.beforeCycle, h, hc]

/-- A cycle made before a hold is not made again. -/
theorem madeOr_made {a : Activity} {c : BusCycle} {cs : List BusCycle} (now : Byte × State)
    (h : s.suspended = some { activity := a, made := c :: cs }) :
    s.madeOr now = (c.data, s.setSuspended (some { activity := a, made := cs })) := by simp [State.madeOr, h]

/-! ## The whole effect, where nobody disturbs it -/

theorem beforeCycle_quiet (h : s.Quiet) : s.beforeCycle = s := by simp [State.beforeCycle, h.1, h.2.1]

theorem madeOr_fresh (now : Byte × State) (h : s.suspended = none) : s.madeOr now = now := by simp [State.madeOr, h]

theorem record_whole (c : BusCycle) (h : s.abandoned = false) : s.record c = s.setBus (c :: s.bus) := by
  simp [State.record, h]

theorem memorySystemRead_populated {a : Word} (h : s.Populated a) : s.memorySystemRead a = (s.peek a, s) := by
  rcases h with h | h <;> simp [State.memorySystemRead, h]

theorem memorySystemWrite_ram {a : Word} (v : Byte) (h : s.Writable a) :
    s.memorySystemWrite a v = s.setMem (s.mem.write a.toNat v) := by
  simp [State.memorySystemWrite, show s.kindAt a = .ram from h]

theorem memorySystemWrite_dropped {a : Word} (v : Byte) (h : ¬ s.Writable a) : s.memorySystemWrite a v = s := by
  unfold State.memorySystemWrite
  split
  · exact absurd ‹_› h
  all_goals rfl

/-- A write of the memory system changes memory and nothing else. -/
theorem memorySystemWrite_whole (s : State) (a : Word) (v : Byte) :
    s.memorySystemWrite a v = s.setMem (s.memorySystemWrite a v).mem := by
  by_cases hw : s.Writable a
  · rw [memorySystemWrite_ram v hw]; rfl
  · rw [memorySystemWrite_dropped v hw]; rfl

/-- So do those of another bus master. -/
theorem masterWrites_whole (s : State) (ws : List (Word × Byte)) : s.masterWrites ws = s.setMem (s.masterWrites ws).mem := by
  induction ws generalizing s with
  | nil => rfl
  | cons w ws ih =>
    have e : s.masterWrites (w :: ws) = (s.memorySystemWrite w.1 w.2).masterWrites ws := rfl
    obtain ⟨m, hm⟩ : ∃ m, s.memorySystemWrite w.1 w.2 = s.setMem m := ⟨_, memorySystemWrite_whole s w.1 w.2⟩
    rw [e, hm]
    exact ih (s.setMem m)

theorem readCycle_quiet (kind : Word → Byte → BusCycle) {a : Word} (h : s.Quiet) (hp : s.Populated a) :
    s.readCycle kind a = (s.peek a, s.setBus (kind a (s.peek a) :: s.bus)) := by
  simp [State.readCycle, madeOr_fresh _ h.2.2, beforeCycle_quiet h, memorySystemRead_populated hp, record_whole _ h.2.1]

theorem memRead_quiet {a : Word} (h : s.Quiet) (hp : s.Populated a) :
    s.memRead a = (s.peek a, s.setBus (.memoryRead a (s.peek a) :: s.bus)) := readCycle_quiet _ h hp

theorem memWrite_quiet {a : Word} (v : Byte) (h : s.Quiet) (hw : s.Writable a) :
    s.memWrite a v = (s.setMem (s.mem.write a.toNat v)).setBus (.memoryWrite a v :: s.bus) := by
  simp [State.memWrite, madeOr_fresh _ h.2.2, beforeCycle_quiet h, h.2.1, memorySystemWrite_ram v hw, State.record]

theorem memWrite_dropped {a : Word} (v : Byte) (h : s.Quiet) (hw : ¬ s.Writable a) :
    s.memWrite a v = s.setBus (.memoryWrite a v :: s.bus) := by
  simp [State.memWrite, madeOr_fresh _ h.2.2, beforeCycle_quiet h, h.2.1, memorySystemWrite_dropped v hw, State.record]

theorem ioRead_presented {p v : Byte} (h : s.Quiet) (hv : s.env.ports.lookup p = some v) :
    s.ioRead p = (v, s.setBus (.ioRead p v :: s.bus)) := by
  simp [State.ioRead, madeOr_fresh _ h.2.2, beforeCycle_quiet h, hv, record_whole _ h.2.1]

theorem ioRead_open {p : Byte} (h : s.Quiet) (hv : s.env.ports.lookup p = none) :
    s.ioRead p = (Config.freeByte s.draws,
      (s.setDraws (s.draws + 1)).setBus (.ioRead p (Config.freeByte s.draws) :: s.bus)) := by
  simp [State.ioRead, madeOr_fresh _ h.2.2, beforeCycle_quiet h, hv, State.drawByte, State.record, h.2.1]

theorem ioWrite_quiet (p v : Byte) (h : s.Quiet) : s.ioWrite p v = s.setBus (.ioWrite p v :: s.bus) := by
  simp [State.ioWrite, madeOr_fresh _ h.2.2, beforeCycle_quiet h, record_whole _ h.2.1]

theorem intaRead_quiet (v : Byte) (h : s.Quiet) : s.intaRead v = (v, s.setBus (.interruptAcknowledge v :: s.bus)) := by
  simp [State.intaRead, madeOr_fresh _ h.2.2, beforeCycle_quiet h, record_whole _ h.2.1]

theorem push16_quiet (v : Word) (h : s.Quiet) (h1 : s.Writable (s.sp - 1)) (h2 : s.Writable (s.sp - 2)) :
    s.push16 v = (((s.setMem ((s.mem.write (s.sp - 1).toNat (hiByte v)).write (s.sp - 2).toNat (loByte v))).setBus
      (.memoryWrite (s.sp - 2) (loByte v) :: .memoryWrite (s.sp - 1) (hiByte v) :: s.bus))).setSp (s.sp - 2) := by
  simp only [State.push16, memWrite_quiet _ h h1]
  exact congrArg (State.setSp · _) (memWrite_quiet (s := (s.setMem _).setBus _) _ h h2)

theorem pop16_quiet (h : s.Quiet) (h1 : s.Populated s.sp) (h2 : s.Populated (s.sp + 1)) :
    s.pop16 = (ofBytes (s.peek (s.sp + 1)) (s.peek s.sp),
      (s.setBus (.memoryRead (s.sp + 1) (s.peek (s.sp + 1)) :: .memoryRead s.sp (s.peek s.sp) :: s.bus)).setSp
        (s.sp + 2)) := by
  simp only [State.pop16, memRead_quiet h h1]
  have second := memRead_quiet (s := s.setBus (.memoryRead s.sp (s.peek s.sp) :: s.bus)) (a := s.sp + 1) h h2
  rw [second]
  rfl

end Sys2Proof.Machine
end

