-- ==== Sys2Proof/Laws/Seen.lean ====
section
/-! SUPPORT. What the machine cycles do where nobody disturbs them, whatever stands behind the address: a read sees
`State.seen` and leaves `State.afterRead`; a store leaves a byte in RAM and nowhere else; a push and a pop are two of them. -/

namespace Sys2Proof.Machine

variable {s t u : State}

/-! ## Reads -/

@[simp] theorem State.afterRead_regs (s : State) (a : Word) : (s.afterRead a).regs = s.regs := rfl
@[simp] theorem State.afterRead_sp (s : State) (a : Word) : (s.afterRead a).sp = s.sp := rfl
@[simp] theorem State.afterRead_pc (s : State) (a : Word) : (s.afterRead a).pc = s.pc := rfl
@[simp] theorem State.afterRead_flags (s : State) (a : Word) : (s.afterRead a).flags = s.flags := rfl
@[simp] theorem State.afterRead_ctl (s : State) (a : Word) : (s.afterRead a).ctl = s.ctl := rfl
@[simp] theorem State.afterRead_mem (s : State) (a : Word) : (s.afterRead a).mem = s.mem := rfl
@[simp] theorem State.afterRead_memMap (s : State) (a : Word) : (s.afterRead a).memMap = s.memMap := rfl
@[simp] theorem State.afterRead_env (s : State) (a : Word) : (s.afterRead a).env = s.env := rfl
@[simp] theorem State.afterRead_inputs (s : State) (a : Word) : (s.afterRead a).inputs = s.inputs := rfl
@[simp] theorem State.afterRead_abandoned (s : State) (a : Word) : (s.afterRead a).abandoned = s.abandoned := rfl
@[simp] theorem State.afterRead_suspended (s : State) (a : Word) : (s.afterRead a).suspended = s.suspended := rfl
@[simp] theorem State.afterRead_kindAt (s : State) (a b : Word) : (s.afterRead a).kindAt b = s.kindAt b := rfl
@[simp] theorem State.afterRead_peek (s : State) (a b : Word) : (s.afterRead a).peek b = s.peek b := rfl

theorem quiet_afterRead {a : Word} (h : s.Quiet) : (s.afterRead a).Quiet := h

theorem memRead_seen (a : Word) (h : s.Quiet) : s.memRead a = (s.seen a, s.afterRead a) := by
  simp only [State.memRead, State.readCycle, madeOr_fresh _ h.2.2, beforeCycle_quiet h]
  have hr : s.memorySystemRead a = (s.seen a, s.setDraws (s.draws + s.seenDraws a)) := by
    unfold State.memorySystemRead State.seen State.seenDraws
    cases s.kindAt a with
    | ram => rfl
    | rom => rfl
    | device => cases s.env.devices.lookup a <;> rfl
    | absent => rfl
  rw [hr]
  exact congrArg (Prod.mk _) (record_whole (s := s.setDraws _) _ h.2.1)

theorem seen_populated {a : Word} (h : s.Populated a) : s.seen a = s.peek a := by
  rcases h with h | h <;> simp [State.seen, h]

theorem pop16_seen (h : s.Quiet) : s.pop16 = (s.seen16 s.sp, s.afterPop) := by
  simp only [State.pop16, memRead_seen _ h, memRead_seen (s := s.afterRead s.sp) _ h]
  rfl

theorem popPc_seen (h : s.Quiet) : s.popPc = s.afterPop.setPc (s.seen16 s.sp) := by
  simp only [State.popPc, pop16_seen h]

/-! ## Stores -/

/-- The whole effect of one store (20_memory.md R62, R71). -/
theorem memWrite_whole (a : Word) (v : Byte) (h : s.Quiet) :
    s.memWrite a v = (s.setMem (s.memWrite a v).mem).setBus (.memoryWrite a v :: s.bus) := by
  by_cases hw : s.Writable a
  · rw [memWrite_quiet v h hw]; rfl
  · rw [memWrite_dropped v h hw]; rfl

theorem quiet_memWrite (a : Word) (v : Byte) (h : s.Quiet) : (s.memWrite a v).Quiet := by
  rw [memWrite_whole a v h]; exact h

theorem memWrite_bus (a : Word) (v : Byte) (h : s.Quiet) : (s.memWrite a v).bus = .memoryWrite a v :: s.bus := by
  rw [memWrite_whole a v h]; rfl

theorem memWrite_env (a : Word) (v : Byte) (h : s.Quiet) : (s.memWrite a v).env = s.env := by
  rw [memWrite_whole a v h]; rfl

theorem memWrite_draws (a : Word) (v : Byte) (h : s.Quiet) : (s.memWrite a v).draws = s.draws := by
  rw [memWrite_whole a v h]; rfl

theorem memWrite_peek_other {a b : Word} (v : Byte) (h : s.Quiet) (hb : b ≠ a) : (s.memWrite a v).peek b = s.peek b := by
  by_cases hw : s.Writable a
  · rw [memWrite_quiet v h hw]; exact State.peek_setMem_write_other s v hb
  · rw [memWrite_dropped v h hw]; rfl

theorem memWrite_stored (a : Word) (v : Byte) (h : s.Quiet) : ByteStored s (s.memWrite a v) a v := by
  refine ⟨fun hw => ?_, fun hw => ?_⟩
  · rw [memWrite_quiet v h hw]; exact State.peek_setMem_write_same s a v
  · rw [memWrite_dropped v h hw]; rfl

theorem writable_memWrite (a b : Word) (v : Byte) : (s.memWrite a v).Writable b ↔ s.Writable b := by
  simp only [State.Writable, State.memWrite_kindAt]

/-- Two stores at different addresses. -/
theorem memWrite_twice {a b : Word} (v w : Byte) (h : s.Quiet) (hab : b ≠ a) :
    ByteStored s ((s.memWrite a v).memWrite b w) a v ∧ ByteStored s ((s.memWrite a v).memWrite b w) b w ∧
    SameMemoryBut [a, b] s ((s.memWrite a v).memWrite b w) := by
  have h' := quiet_memWrite a v h
  have hb := memWrite_stored b w h'
  have ha := memWrite_stored a v h
  refine ⟨⟨fun hw => ?_, fun hw => ?_⟩, ⟨fun hw => hb.1 ((writable_memWrite a b v).2 hw), fun hw => ?_⟩, fun c hc => ?_⟩
  · rw [memWrite_peek_other w h' hab.symm, ha.1 hw]
  · rw [memWrite_peek_other w h' hab.symm, ha.2 hw]
  · rw [hb.2 (mt (writable_memWrite a b v).1 hw), memWrite_peek_other v h hab]
  · simp only [List.mem_cons, List.not_mem_nil, or_false, not_or] at hc
    rw [memWrite_peek_other w h' hc.2, memWrite_peek_other v h hc.1]

theorem word_sub_two_ne (a : Word) : a - 2 ≠ a - 1 := by
  intro h
  have := congrArg BitVec.toNat h
  simp [BitVec.toNat_sub] at this
  omega

theorem word_add_one_ne (a : Word) : a + 1 ≠ a := by
  intro h
  have := congrArg BitVec.toNat h
  simp [BitVec.toNat_add] at this
  have := a.isLt
  omega

theorem push16_whole (v : Word) (h : s.Quiet) : s.push16 v = ((s.setMem (s.push16 v).mem).setSp (s.sp - 2)).setBus
    (.memoryWrite (s.sp - 2) (loByte v) :: .memoryWrite (s.sp - 1) (hiByte v) :: s.bus) := by
  unfold State.push16
  rw [memWrite_whole _ _ (quiet_memWrite _ _ h), memWrite_whole _ _ h]
  rfl

theorem quiet_push16 (v : Word) (h : s.Quiet) : (s.push16 v).Quiet := by
  rw [push16_whole v h]; exact h

theorem push16_pushed (v : Word) (h : s.Quiet) : Pushed s (s.push16 v) v := by
  have two := memWrite_twice (hiByte v) (loByte v) h (word_sub_two_ne s.sp)
  exact ⟨two.1, two.2.1, two.2.2, rfl, by rw [push16_whole v h]; rfl⟩

theorem callTo_pushed (a : Word) (h : s.Quiet) : Pushed s (s.callTo a) s.pc := push16_pushed s.pc h

theorem callTo_whole (a : Word) (h : s.Quiet) : OnlyStackAndPc s (s.callTo a) := by
  unfold OnlyStackAndPc State.callTo
  conv => lhs; rw [push16_whole s.pc h]
  rw [push16_whole s.pc h]
  rfl

theorem quiet_callTo (a : Word) (h : s.Quiet) : (s.callTo a).Quiet := quiet_push16 s.pc h

/-! ## Conditional branches -/

theorem jumpIf_eq (cond : Cond) (a : Word) : s.jumpIf cond a = s.setPc (if cond.holds s.flags = true then a else s.pc) := by
  unfold State.jumpIf
  split <;> rfl

theorem callIf_taken {cond : Cond} (a : Word) (h : cond.holds s.flags = true) : s.callIf cond a = s.callTo a := if_pos h

theorem callIf_untaken {cond : Cond} (a : Word) (h : cond.holds s.flags = false) : s.callIf cond a = s := by
  simp [State.callIf, h]

end Sys2Proof.Machine
end

