-- ==== Sys2Proof/Laws/Flags.lean ====
section
/-! SUPPORT. The flag computations as numbers: `add8` and `sub8` give the sum and the difference with the seven flags that
tell of it (10_state.md R29 to R33). -/

namespace Sys2Proof.Machine

theorem parity_ones (r : Byte) : parity r = true ↔ ones r % 2 = 0 := by
  revert r
  decide +kernel

theorem byte_msb (r : Byte) : r.msb = true ↔ 128 ≤ r.toNat := by
  rw [BitVec.msb_eq_decide]
  simp

theorem byte_zero (r : Byte) : (r == 0x00#8) = true ↔ r.toNat = 0 := by
  rw [beq_iff_eq, ← BitVec.toNat_inj]
  rfl

theorem resultFlags_of {r : Byte} {f : Flags} (hs : f.s = r.msb) (hz : f.z = (r == 0x00#8)) (hp : f.p = parity r) :
    ResultFlags r f := by
  refine ⟨?_, ?_, ?_⟩
  · rw [hs]; exact byte_msb r
  · rw [hz]; exact byte_zero r
  · rw [hp]; exact parity_ones r

theorem byte_not_toNat (b : Byte) : (~~~b).toNat = 255 - b.toNat := by
  rw [BitVec.toNat_not]

/-- The flags of an addition of bytes (10_state.md R32). -/
theorem add8_sumBut (a b : Byte) (c : Bool) : SumBut a b c.toNat (add8 a b c).r (add8 a b c).flags := by
  have ha := a.isLt
  have hb := b.isLt
  have hc : c.toNat ≤ 1 := by cases c <;> decide
  have hr : (add8 a b c).r.toNat = (a.toNat + b.toNat + c.toNat) % 256 := by simp [add8]
  refine ⟨hr, resultFlags_of rfl rfl rfl, by simp only [Alu.flags, add8, decide_eq_true_eq]; omega, ?_, ?_⟩
  · simp only [Alu.flags, add8, BitVec.msb_eq_decide, BitVec.toInt_eq_toNat_cond, BitVec.toNat_ofNat]
    by_cases h1 : 128 ≤ a.toNat <;> by_cases h2 : 128 ≤ b.toNat <;>
      by_cases h3 : 128 ≤ (a.toNat + b.toNat + c.toNat) % 256 <;> simp [h1, h2, h3] <;> omega
  · simp only [Alu.flags, add8, maj, BitVec.msb_eq_decide, BitVec.toInt_eq_toNat_cond, BitVec.toNat_ofNat]
    by_cases h1 : 128 ≤ a.toNat <;> by_cases h2 : 128 ≤ b.toNat <;>
      by_cases h3 : 128 ≤ (a.toNat + b.toNat + c.toNat) % 256 <;> simp [h1, h2, h3] <;> omega

theorem add8_sumOf (a b : Byte) (c : Bool) : SumOf a b c.toNat (add8 a b c).r (add8 a b c).flags :=
  ⟨add8_sumBut a b c, by simp only [Alu.flags, add8, decide_eq_true_eq]; omega⟩

/-- The flags of a subtraction of bytes (10_state.md R33). -/
theorem sub8_differenceBut (a b : Byte) (c : Bool) : DifferenceBut a b c.toNat (sub8 a b c).r (sub8 a b c).flags := by
  have ha := a.isLt
  have hb := b.isLt
  have hc : (!c).toNat = 1 - c.toNat ∧ c.toNat ≤ 1 := by cases c <;> decide
  have hr : (sub8 a b c).r.toNat = (a.toNat + (255 - b.toNat) + (1 - c.toNat)) % 256 := by
    simp [sub8, add8, hc.1]
  refine ⟨by rw [hr]; omega, resultFlags_of rfl rfl rfl, ?_, ?_, ?_⟩
  · simp only [Alu.flags, sub8, add8, decide_eq_true_eq, byte_not_toNat, hc.1]; omega
  · simp only [Alu.flags, sub8, add8, BitVec.msb_eq_decide, BitVec.toInt_eq_toNat_cond, BitVec.toNat_ofNat,
      byte_not_toNat, hc.1]
    by_cases h1 : 128 ≤ a.toNat <;> by_cases h2 : 128 ≤ 255 - b.toNat <;>
      by_cases h3 : 128 ≤ (a.toNat + (255 - b.toNat) + (1 - c.toNat)) % 256 <;> simp [h1, h2, h3] <;> omega
  · simp only [Alu.flags, sub8, add8, maj, BitVec.msb_eq_decide, BitVec.toInt_eq_toNat_cond, BitVec.toNat_ofNat,
      byte_not_toNat, hc.1]
    by_cases h1 : 128 ≤ a.toNat <;> by_cases h2 : 128 ≤ 255 - b.toNat <;>
      by_cases h3 : 128 ≤ (a.toNat + (255 - b.toNat) + (1 - c.toNat)) % 256 <;> simp [h1, h2, h3] <;> omega

theorem sub8_differenceOf (a b : Byte) (c : Bool) : DifferenceOf a b c.toNat (sub8 a b c).r (sub8 a b c).flags := by
  have hc : (!c).toNat = 1 - c.toNat ∧ c.toNat ≤ 1 := by cases c <;> decide
  have ha := a.isLt
  have hb := b.isLt
  refine ⟨sub8_differenceBut a b c, ?_⟩
  simp only [Alu.flags, sub8, add8, byte_not_toNat, hc.1, Bool.not_eq_true', decide_eq_false_iff_not]
  omega

end Sys2Proof.Machine
end

