-- ==== Sys2Proof/Laws/PerInstr.lean ====
section
/-! SUPPORT. A statement for every instruction, one lemma per constructor: the encoder writes as many bytes as the decoder
reads from the first of them. -/

namespace Sys2Proof.Laws

/-- The encoding is as long as its first byte says (30_encoding.md R101). -/
def EncodedLength.Statement (i : Instr) : Prop := (encode i).length = opcodeLength ((encode i).getD 0 0x00#8)

theorem encodedLength_of_word {i : Instr} {opcode : Byte} {w : Word} (he : encode i = withWord opcode w)
    (hl : opcodeLength opcode = 3) : EncodedLength.Statement i := by
  simp [EncodedLength.Statement, he, withWord, hl]

theorem encodedLength_of_byte {i : Instr} {opcode v : Byte} (he : encode i = [opcode, v])
    (hl : opcodeLength opcode = 2) : EncodedLength.Statement i := by
  simp [EncodedLength.Statement, he, hl]

theorem EncodedLength.movRR (dst src : Reg) : EncodedLength.Statement (.movRR dst src) := by
  cases dst <;> cases src <;> rfl

theorem EncodedLength.movRM (dst : Reg) : EncodedLength.Statement (.movRM dst) := by
  cases dst <;> rfl

theorem EncodedLength.movMR (src : Reg) : EncodedLength.Statement (.movMR src) := by
  cases src <;> rfl

theorem EncodedLength.mviR (dst : Reg) (d8 : Byte) : EncodedLength.Statement (.mviR dst d8) := by
  cases dst <;> exact encodedLength_of_byte rfl rfl

theorem EncodedLength.mviM (d8 : Byte) : EncodedLength.Statement (.mviM d8) := encodedLength_of_byte rfl rfl

theorem EncodedLength.lxi (rp : Pair) (d16 : Word) : EncodedLength.Statement (.lxi rp d16) := by
  cases rp <;> exact encodedLength_of_word rfl rfl

theorem EncodedLength.lda (a16 : Word) : EncodedLength.Statement (.lda a16) := encodedLength_of_word rfl rfl

theorem EncodedLength.sta (a16 : Word) : EncodedLength.Statement (.sta a16) := encodedLength_of_word rfl rfl

theorem EncodedLength.lhld (a16 : Word) : EncodedLength.Statement (.lhld a16) := encodedLength_of_word rfl rfl

theorem EncodedLength.shld (a16 : Word) : EncodedLength.Statement (.shld a16) := encodedLength_of_word rfl rfl

theorem EncodedLength.ldax (rp : IndexPair) : EncodedLength.Statement (.ldax rp) := by
  cases rp <;> rfl

theorem EncodedLength.stax (rp : IndexPair) : EncodedLength.Statement (.stax rp) := by
  cases rp <;> rfl

theorem EncodedLength.xchg : EncodedLength.Statement .xchg := rfl

theorem EncodedLength.addR (src : Reg) : EncodedLength.Statement (.addR src) := by
  cases src <;> rfl

theorem EncodedLength.addM : EncodedLength.Statement .addM := rfl

theorem EncodedLength.adi (d8 : Byte) : EncodedLength.Statement (.adi d8) := encodedLength_of_byte rfl rfl

theorem EncodedLength.adcR (src : Reg) : EncodedLength.Statement (.adcR src) := by
  cases src <;> rfl

theorem EncodedLength.adcM : EncodedLength.Statement .adcM := rfl

theorem EncodedLength.aci (d8 : Byte) : EncodedLength.Statement (.aci d8) := encodedLength_of_byte rfl rfl

theorem EncodedLength.subR (src : Reg) : EncodedLength.Statement (.subR src) := by
  cases src <;> rfl

theorem EncodedLength.subM : EncodedLength.Statement .subM := rfl

theorem EncodedLength.sui (d8 : Byte) : EncodedLength.Statement (.sui d8) := encodedLength_of_byte rfl rfl

theorem EncodedLength.sbbR (src : Reg) : EncodedLength.Statement (.sbbR src) := by
  cases src <;> rfl

theorem EncodedLength.sbbM : EncodedLength.Statement .sbbM := rfl

theorem EncodedLength.sbi (d8 : Byte) : EncodedLength.Statement (.sbi d8) := encodedLength_of_byte rfl rfl

theorem EncodedLength.inrR (dst : Reg) : EncodedLength.Statement (.inrR dst) := by
  cases dst <;> rfl

theorem EncodedLength.inrM : EncodedLength.Statement .inrM := rfl

theorem EncodedLength.dcrR (dst : Reg) : EncodedLength.Statement (.dcrR dst) := by
  cases dst <;> rfl

theorem EncodedLength.dcrM : EncodedLength.Statement .dcrM := rfl

theorem EncodedLength.inx (rp : Pair) : EncodedLength.Statement (.inx rp) := by
  cases rp <;> rfl

theorem EncodedLength.dcx (rp : Pair) : EncodedLength.Statement (.dcx rp) := by
  cases rp <;> rfl

theorem EncodedLength.dad (rp : Pair) : EncodedLength.Statement (.dad rp) := by
  cases rp <;> rfl

theorem EncodedLength.daa : EncodedLength.Statement .daa := rfl

theorem EncodedLength.anaR (src : Reg) : EncodedLength.Statement (.anaR src) := by
  cases src <;> rfl

theorem EncodedLength.anaM : EncodedLength.Statement .anaM := rfl

theorem EncodedLength.ani (d8 : Byte) : EncodedLength.Statement (.ani d8) := encodedLength_of_byte rfl rfl

theorem EncodedLength.xraR (src : Reg) : EncodedLength.Statement (.xraR src) := by
  cases src <;> rfl

theorem EncodedLength.xraM : EncodedLength.Statement .xraM := rfl

theorem EncodedLength.xri (d8 : Byte) : EncodedLength.Statement (.xri d8) := encodedLength_of_byte rfl rfl

theorem EncodedLength.oraR (src : Reg) : EncodedLength.Statement (.oraR src) := by
  cases src <;> rfl

theorem EncodedLength.oraM : EncodedLength.Statement .oraM := rfl

theorem EncodedLength.ori (d8 : Byte) : EncodedLength.Statement (.ori d8) := encodedLength_of_byte rfl rfl

theorem EncodedLength.cmpR (src : Reg) : EncodedLength.Statement (.cmpR src) := by
  cases src <;> rfl

theorem EncodedLength.cmpM : EncodedLength.Statement .cmpM := rfl

theorem EncodedLength.cpi (d8 : Byte) : EncodedLength.Statement (.cpi d8) := encodedLength_of_byte rfl rfl

theorem EncodedLength.rlc : EncodedLength.Statement .rlc := rfl

theorem EncodedLength.rrc : EncodedLength.Statement .rrc := rfl

theorem EncodedLength.ral : EncodedLength.Statement .ral := rfl

theorem EncodedLength.rar : EncodedLength.Statement .rar := rfl

theorem EncodedLength.cma : EncodedLength.Statement .cma := rfl

theorem EncodedLength.cmc : EncodedLength.Statement .cmc := rfl

theorem EncodedLength.stc : EncodedLength.Statement .stc := rfl

theorem EncodedLength.jmp (a16 : Word) : EncodedLength.Statement (.jmp a16) := encodedLength_of_word rfl rfl

theorem EncodedLength.jnz (a16 : Word) : EncodedLength.Statement (.jnz a16) := encodedLength_of_word rfl rfl

theorem EncodedLength.jz (a16 : Word) : EncodedLength.Statement (.jz a16) := encodedLength_of_word rfl rfl

theorem EncodedLength.jnc (a16 : Word) : EncodedLength.Statement (.jnc a16) := encodedLength_of_word rfl rfl

theorem EncodedLength.jc (a16 : Word) : EncodedLength.Statement (.jc a16) := encodedLength_of_word rfl rfl

theorem EncodedLength.jpo (a16 : Word) : EncodedLength.Statement (.jpo a16) := encodedLength_of_word rfl rfl

theorem EncodedLength.jpe (a16 : Word) : EncodedLength.Statement (.jpe a16) := encodedLength_of_word rfl rfl

theorem EncodedLength.jp (a16 : Word) : EncodedLength.Statement (.jp a16) := encodedLength_of_word rfl rfl

theorem EncodedLength.jm (a16 : Word) : EncodedLength.Statement (.jm a16) := encodedLength_of_word rfl rfl

theorem EncodedLength.call (a16 : Word) : EncodedLength.Statement (.call a16) := encodedLength_of_word rfl rfl

theorem EncodedLength.cnz (a16 : Word) : EncodedLength.Statement (.cnz a16) := encodedLength_of_word rfl rfl

theorem EncodedLength.cz (a16 : Word) : EncodedLength.Statement (.cz a16) := encodedLength_of_word rfl rfl

theorem EncodedLength.cnc (a16 : Word) : EncodedLength.Statement (.cnc a16) := encodedLength_of_word rfl rfl

theorem EncodedLength.cc (a16 : Word) : EncodedLength.Statement (.cc a16) := encodedLength_of_word rfl rfl

theorem EncodedLength.cpo (a16 : Word) : EncodedLength.Statement (.cpo a16) := encodedLength_of_word rfl rfl

theorem EncodedLength.cpe (a16 : Word) : EncodedLength.Statement (.cpe a16) := encodedLength_of_word rfl rfl

theorem EncodedLength.cp (a16 : Word) : EncodedLength.Statement (.cp a16) := encodedLength_of_word rfl rfl

theorem EncodedLength.cm (a16 : Word) : EncodedLength.Statement (.cm a16) := encodedLength_of_word rfl rfl

theorem EncodedLength.ret : EncodedLength.Statement .ret := rfl

theorem EncodedLength.rnz : EncodedLength.Statement .rnz := rfl

theorem EncodedLength.rz : EncodedLength.Statement .rz := rfl

theorem EncodedLength.rnc : EncodedLength.Statement .rnc := rfl

theorem EncodedLength.rc : EncodedLength.Statement .rc := rfl

theorem EncodedLength.rpo : EncodedLength.Statement .rpo := rfl

theorem EncodedLength.rpe : EncodedLength.Statement .rpe := rfl

theorem EncodedLength.rp : EncodedLength.Statement .rp := rfl

theorem EncodedLength.rm : EncodedLength.Statement .rm := rfl

theorem EncodedLength.rst (n : Nat) : EncodedLength.Statement (.rst n) := by
  have each : ∀ k : BitVec 3, 1 = opcodeLength (0b11#2 ++ k ++ 0b111#3) := by decide
  exact each (BitVec.ofNat 3 n)

theorem EncodedLength.pchl : EncodedLength.Statement .pchl := rfl

theorem EncodedLength.pushRp (rp : StackPair) : EncodedLength.Statement (.pushRp rp) := by
  cases rp <;> rfl

theorem EncodedLength.pushPsw : EncodedLength.Statement .pushPsw := rfl

theorem EncodedLength.popRp (rp : StackPair) : EncodedLength.Statement (.popRp rp) := by
  cases rp <;> rfl

theorem EncodedLength.popPsw : EncodedLength.Statement .popPsw := rfl

theorem EncodedLength.xthl : EncodedLength.Statement .xthl := rfl

theorem EncodedLength.sphl : EncodedLength.Statement .sphl := rfl

theorem EncodedLength.inp (port : Byte) : EncodedLength.Statement (.inp port) := encodedLength_of_byte rfl rfl

theorem EncodedLength.out (port : Byte) : EncodedLength.Statement (.out port) := encodedLength_of_byte rfl rfl

theorem EncodedLength.ei : EncodedLength.Statement .ei := rfl

theorem EncodedLength.di : EncodedLength.Statement .di := rfl

theorem EncodedLength.hlt : EncodedLength.Statement .hlt := rfl

theorem EncodedLength.nop : EncodedLength.Statement .nop := rfl

theorem EncodedLength.rim : EncodedLength.Statement .rim := rfl

theorem EncodedLength.sim : EncodedLength.Statement .sim := rfl

theorem EncodedLength.arhl : EncodedLength.Statement .arhl := rfl

theorem EncodedLength.dsub : EncodedLength.Statement .dsub := rfl

theorem EncodedLength.jnui (a16 : Word) : EncodedLength.Statement (.jnui a16) := encodedLength_of_word rfl rfl

theorem EncodedLength.jui (a16 : Word) : EncodedLength.Statement (.jui a16) := encodedLength_of_word rfl rfl

theorem EncodedLength.ldhi (d8 : Byte) : EncodedLength.Statement (.ldhi d8) := encodedLength_of_byte rfl rfl

theorem EncodedLength.ldsi (d8 : Byte) : EncodedLength.Statement (.ldsi d8) := encodedLength_of_byte rfl rfl

theorem EncodedLength.lhlx : EncodedLength.Statement .lhlx := rfl

theorem EncodedLength.rdel : EncodedLength.Statement .rdel := rfl

theorem EncodedLength.rstv : EncodedLength.Statement .rstv := rfl

theorem EncodedLength.shlx : EncodedLength.Statement .shlx := rfl

/-- The statement, for every instruction. -/
theorem EncodedLength.all (i : Instr) : EncodedLength.Statement i := by
  cases i
  case movRR dst src => exact EncodedLength.movRR dst src
  case movRM dst => exact EncodedLength.movRM dst
  case movMR src => exact EncodedLength.movMR src
  case mviR dst d8 => exact EncodedLength.mviR dst d8
  case mviM d8 => exact EncodedLength.mviM d8
  case lxi rp d16 => exact EncodedLength.lxi rp d16
  case lda a16 => exact EncodedLength.lda a16
  case sta a16 => exact EncodedLength.sta a16
  case lhld a16 => exact EncodedLength.lhld a16
  case shld a16 => exact EncodedLength.shld a16
  case ldax rp => exact EncodedLength.ldax rp
  case stax rp => exact EncodedLength.stax rp
  case xchg => exact EncodedLength.xchg
  case addR src => exact EncodedLength.addR src
  case addM => exact EncodedLength.addM
  case adi d8 => exact EncodedLength.adi d8
  case adcR src => exact EncodedLength.adcR src
  case adcM => exact EncodedLength.adcM
  case aci d8 => exact EncodedLength.aci d8
  case subR src => exact EncodedLength.subR src
  case subM => exact EncodedLength.subM
  case sui d8 => exact EncodedLength.sui d8
  case sbbR src => exact EncodedLength.sbbR src
  case sbbM => exact EncodedLength.sbbM
  case sbi d8 => exact EncodedLength.sbi d8
  case inrR dst => exact EncodedLength.inrR dst
  case inrM => exact EncodedLength.inrM
  case dcrR dst => exact EncodedLength.dcrR dst
  case dcrM => exact EncodedLength.dcrM
  case inx rp => exact EncodedLength.inx rp
  case dcx rp => exact EncodedLength.dcx rp
  case dad rp => exact EncodedLength.dad rp
  case daa => exact EncodedLength.daa
  case anaR src => exact EncodedLength.anaR src
  case anaM => exact EncodedLength.anaM
  case ani d8 => exact EncodedLength.ani d8
  case xraR src => exact EncodedLength.xraR src
  case xraM => exact EncodedLength.xraM
  case xri d8 => exact EncodedLength.xri d8
  case oraR src => exact EncodedLength.oraR src
  case oraM => exact EncodedLength.oraM
  case ori d8 => exact EncodedLength.ori d8
  case cmpR src => exact EncodedLength.cmpR src
  case cmpM => exact EncodedLength.cmpM
  case cpi d8 => exact EncodedLength.cpi d8
  case rlc => exact EncodedLength.rlc
  case rrc => exact EncodedLength.rrc
  case ral => exact EncodedLength.ral
  case rar => exact EncodedLength.rar
  case cma => exact EncodedLength.cma
  case cmc => exact EncodedLength.cmc
  case stc => exact EncodedLength.stc
  case jmp a16 => exact EncodedLength.jmp a16
  case jnz a16 => exact EncodedLength.jnz a16
  case jz a16 => exact EncodedLength.jz a16
  case jnc a16 => exact EncodedLength.jnc a16
  case jc a16 => exact EncodedLength.jc a16
  case jpo a16 => exact EncodedLength.jpo a16
  case jpe a16 => exact EncodedLength.jpe a16
  case jp a16 => exact EncodedLength.jp a16
  case jm a16 => exact EncodedLength.jm a16
  case call a16 => exact EncodedLength.call a16
  case cnz a16 => exact EncodedLength.cnz a16
  case cz a16 => exact EncodedLength.cz a16
  case cnc a16 => exact EncodedLength.cnc a16
  case cc a16 => exact EncodedLength.cc a16
  case cpo a16 => exact EncodedLength.cpo a16
  case cpe a16 => exact EncodedLength.cpe a16
  case cp a16 => exact EncodedLength.cp a16
  case cm a16 => exact EncodedLength.cm a16
  case ret => exact EncodedLength.ret
  case rnz => exact EncodedLength.rnz
  case rz => exact EncodedLength.rz
  case rnc => exact EncodedLength.rnc
  case rc => exact EncodedLength.rc
  case rpo => exact EncodedLength.rpo
  case rpe => exact EncodedLength.rpe
  case rp => exact EncodedLength.rp
  case rm => exact EncodedLength.rm
  case rst n => exact EncodedLength.rst n
  case pchl => exact EncodedLength.pchl
  case pushRp rp => exact EncodedLength.pushRp rp
  case pushPsw => exact EncodedLength.pushPsw
  case popRp rp => exact EncodedLength.popRp rp
  case popPsw => exact EncodedLength.popPsw
  case xthl => exact EncodedLength.xthl
  case sphl => exact EncodedLength.sphl
  case inp port => exact EncodedLength.inp port
  case out port => exact EncodedLength.out port
  case ei => exact EncodedLength.ei
  case di => exact EncodedLength.di
  case hlt => exact EncodedLength.hlt
  case nop => exact EncodedLength.nop
  case rim => exact EncodedLength.rim
  case sim => exact EncodedLength.sim
  case arhl => exact EncodedLength.arhl
  case dsub => exact EncodedLength.dsub
  case jnui a16 => exact EncodedLength.jnui a16
  case jui a16 => exact EncodedLength.jui a16
  case ldhi d8 => exact EncodedLength.ldhi d8
  case ldsi d8 => exact EncodedLength.ldsi d8
  case lhlx => exact EncodedLength.lhlx
  case rdel => exact EncodedLength.rdel
  case rstv => exact EncodedLength.rstv
  case shlx => exact EncodedLength.shlx

end Sys2Proof.Laws
end

