-- ==== Sys2Proof/Laws/Progress.lean ====
section
/-! SUPPORT. What any meaning can do, disturbed or not, said once: the memory map and the samples to come stay, the current
sample loses only cycle events, HOLD and RESET IN cut only if the sample says so, memory changes only where RAM stands and
stays in canonical form, the bus history grows, by I/O reads only for IN and by I/O writes only for OUT. -/

namespace Sys2Proof.Machine

/-- A machine cycle of the I/O space. -/
def BusCycle.isIo (c : BusCycle) : Bool := c.isIoRead || c.isIoWrite

variable {s t u : State} {io : BusCycle → Bool}

/-- From `s` the machine has gone to `t` by machine cycles and updates of registers, flags and control state; `io` says
which I/O cycles may be among them. -/
structure Progress (io : BusCycle → Bool) (s t : State) : Prop where
  memMap : t.memMap = s.memMap
  inputs : t.inputs = s.inputs
  env : ∃ n hold resetIn, t.env = { s.env with cycles := s.env.cycles.drop n, hold := hold, resetIn := resetIn }
  holds : s.env.hold = true → t.env.hold = true
  resets : s.env.resetIn = true → t.env.resetIn = true
  resetIn : t.env.resetIn = true → s.env.resetIn = true ∨ CycleEvent.resetIn ∈ s.env.cycles
  abandoned : t.abandoned = true → s.abandoned = true ∨ t.env.resetIn = true ∨ t.env.hold = true
  quiet : s.env.cycles = [] → s.abandoned = false → t.abandoned = false
  unsuspended : s.suspended = none → t.suspended = none
  fixed : ∀ a, ¬ s.Writable a → t.peek a = s.peek a
  wf : s.mem.wf = true → t.mem.wf = true
  bus : ∃ cs : List BusCycle, t.bus = cs ++ s.bus ∧ ∀ c ∈ cs, c.isIo = true → io c = true

/-- Memory, map, environment and history as before. -/
theorem Progress.still (hm : t.mem = s.mem) (hM : t.memMap = s.memMap) (he : t.env = s.env) (hi : t.inputs = s.inputs)
    (hb : t.bus = s.bus) (ha : t.abandoned = s.abandoned) (hs : s.suspended = none → t.suspended = none) :
    Progress io s t where
  memMap := hM
  inputs := hi
  env := ⟨0, s.env.hold, s.env.resetIn, by simp [he]⟩
  holds h := by rw [he]; exact h
  resets h := by rw [he]; exact h
  resetIn h := .inl (he ▸ h)
  abandoned h := .inl (ha ▸ h)
  quiet _ h := ha.trans h
  unsuspended := hs
  fixed a _ := by simp only [State.peek, hm]
  wf h := hm ▸ h
  bus := ⟨[], by simp [hb]⟩

theorem Progress.refl (s : State) : Progress io s s := .still rfl rfl rfl rfl rfl rfl id

theorem Progress.cycles (h : Progress io s t) : ∃ n, t.env.cycles = s.env.cycles.drop n := by
  obtain ⟨n, _, _, hn⟩ := h.env
  exact ⟨n, by rw [hn]⟩

theorem Progress.quiet_all (h : Progress io s t) (hq : s.Quiet) : t.Quiet := by
  obtain ⟨n, hn⟩ := h.cycles
  exact ⟨by rw [hn]; simp [hq.1], h.quiet hq.1 hq.2.1, h.unsuspended hq.2.2⟩

theorem Progress.trans (h : Progress io s t) (k : Progress io t u) : Progress io s u where
  memMap := k.memMap.trans h.memMap
  inputs := k.inputs.trans h.inputs
  env := by
    obtain ⟨n, _, _, hn⟩ := h.env
    obtain ⟨m, x, y, hm⟩ := k.env
    exact ⟨n + m, x, y, by rw [hm, hn]; simp⟩
  holds hs := k.holds (h.holds hs)
  resets hs := k.resets (h.resets hs)
  resetIn hu := by
    obtain ⟨n, hn⟩ := h.cycles
    rcases k.resetIn hu with ht | ht
    · exact h.resetIn ht
    · rw [hn] at ht
      exact .inr (List.mem_of_mem_drop ht)
  abandoned hu := by
    rcases k.abandoned hu with ht | ht
    · exact (h.abandoned ht).imp_right (Or.imp k.resets k.holds)
    · exact .inr ht
  quiet hc ha := by
    obtain ⟨n, hn⟩ := h.cycles
    exact k.quiet (by rw [hn]; simp [hc]) (h.quiet hc ha)
  unsuspended hs := k.unsuspended (h.unsuspended hs)
  fixed a ha := (k.fixed a (by simpa only [State.Writable, kindAt_of_memMap h.memMap] using ha)).trans (h.fixed a ha)
  wf hs := k.wf (h.wf hs)
  bus := by
    obtain ⟨cs, hcs, hio⟩ := h.bus
    obtain ⟨ds, hds, hio'⟩ := k.bus
    refine ⟨ds ++ cs, by rw [hds, hcs, List.append_assoc], fun c hc => ?_⟩
    rcases List.mem_append.1 hc with hc | hc
    · exact hio' c hc
    · exact hio c hc

/-! ## Updates -/

theorem Progress.setRegs (h : Progress io s t) (x : Regs) : Progress io s (t.setRegs x) :=
  h.trans (.still rfl rfl rfl rfl rfl rfl id)
theorem Progress.setSp (h : Progress io s t) (x : Word) : Progress io s (t.setSp x) :=
  h.trans (.still rfl rfl rfl rfl rfl rfl id)
theorem Progress.setPc (h : Progress io s t) (x : Word) : Progress io s (t.setPc x) :=
  h.trans (.still rfl rfl rfl rfl rfl rfl id)
theorem Progress.setFlags (h : Progress io s t) (x : Flags) : Progress io s (t.setFlags x) :=
  h.trans (.still rfl rfl rfl rfl rfl rfl id)
theorem Progress.setCtl (h : Progress io s t) (x : Control) : Progress io s (t.setCtl x) :=
  h.trans (.still rfl rfl rfl rfl rfl rfl id)

/-! ## Machine cycles -/

theorem setMem_progress {m : Memory} (hf : ∀ a, ¬ s.Writable a → (s.setMem m).peek a = s.peek a)
    (hw : s.mem.wf = true → m.wf = true) : Progress io s (s.setMem m) :=
  { Progress.refl (io := io) s with env := ⟨0, s.env.hold, s.env.resetIn, rfl⟩, fixed := hf, wf := hw, bus := ⟨[], rfl, by simp⟩ }

theorem memorySystemWrite_progress (s : State) (a : Word) (v : Byte) : Progress io s (s.memorySystemWrite a v) := by
  by_cases hw : s.Writable a
  · rw [memorySystemWrite_ram v hw]
    exact setMem_progress (fun b hb => State.peek_setMem_write_other s v fun hba => hb (hba ▸ hw))
      fun h => Memory.wf_write v h (word_lt_memorySize a)
  · rw [memorySystemWrite_dropped v hw]
    exact .refl s

theorem masterWrites_progress (s : State) (ws : List (Word × Byte)) : Progress io s (s.masterWrites ws) := by
  induction ws generalizing s with
  | nil => exact .refl s
  | cons w ws ih => exact (memorySystemWrite_progress s w.1 w.2).trans (ih _)

/-- An event before a cycle is spent; a level it sets stays, and a cut needs one of the two levels. -/
theorem event_progress {e : CycleEvent} {es : List CycleEvent} {hold resetIn cut : Bool} (h : s.env.cycles = e :: es)
    (hh : s.env.hold = true → hold = true) (hr : s.env.resetIn = true → resetIn = true)
    (hr' : resetIn = true → s.env.resetIn = true ∨ e = .resetIn)
    (ha : cut = true → s.abandoned = true ∨ resetIn = true ∨ hold = true) :
    Progress io s ((s.setEnv { s.env with cycles := es, hold := hold, resetIn := resetIn }).setAbandoned cut) where
  memMap := rfl
  inputs := rfl
  env := ⟨1, hold, resetIn, by simp [h]⟩
  holds := hh
  resets := hr
  resetIn k := (hr' k).imp_right fun k => by simp [h, k]
  abandoned := ha
  quiet hc := by simp [hc] at h
  unsuspended := id
  fixed _ _ := rfl
  wf h := h
  bus := ⟨[], rfl, by simp⟩

theorem setAbandoned_masterWrites (s : State) (ws : List (Word × Byte)) (x : Bool) :
    (s.masterWrites ws).setAbandoned x = (s.setAbandoned x).masterWrites ws := by
  induction ws generalizing s with
  | nil => rfl
  | cons w ws ih =>
    change ((s.memorySystemWrite w.1 w.2).masterWrites ws).setAbandoned x =
      ((s.setAbandoned x).memorySystemWrite w.1 w.2).masterWrites ws
    rw [ih]
    congr 1
    unfold State.memorySystemWrite
    rw [State.setAbandoned_kindAt]
    split <;> rfl

theorem beforeCycle_progress (s : State) : Progress io s s.beforeCycle := by
  unfold State.beforeCycle
  split
  · exact .refl s
  · split
    · exact .refl s
    · exact event_progress (cut := s.abandoned) ‹_› id id .inl .inl
    · rw [setAbandoned_masterWrites]
      exact (event_progress (resetIn := s.env.resetIn) (cut := true) ‹_› (fun _ => rfl) id .inl
        (fun _ => .inr (.inr rfl))).trans (masterWrites_progress _ _)
    · exact event_progress (hold := s.env.hold) (cut := true) ‹_› id (fun _ => rfl) (fun _ => .inr rfl)
        (fun _ => .inr (.inl rfl))

theorem madeOr_progress {now : Byte × State} (h : Progress io s now.2) : Progress io s (s.madeOr now).2 := by
  rcases madeOr_cases s now with e | ⟨_, _, _, hp, -, e⟩
  · rwa [e]
  · rw [e]; exact .still rfl rfl rfl rfl rfl rfl fun hs => by rw [hs] at hp; cases hp

theorem memorySystemRead_progress (s : State) (a : Word) : Progress io s (s.memorySystemRead a).2 := by
  unfold State.memorySystemRead
  split
  · exact .refl s
  · exact .refl s
  · split <;> exact .still rfl rfl rfl rfl rfl rfl id
  · exact .still rfl rfl rfl rfl rfl rfl id

theorem record_progress (s : State) (c : BusCycle) (hc : c.isIo = true → io c = true) : Progress io s (s.record c) := by
  unfold State.record
  split
  · exact .refl s
  · exact { Progress.refl (io := io) s with
      env := ⟨0, s.env.hold, s.env.resetIn, rfl⟩, bus := ⟨[c], rfl, by simpa using hc⟩, fixed := fun _ _ => rfl }

theorem readCycle_progress (s : State) (kind : Word → Byte → BusCycle) (a : Word) (hk : ∀ v, (kind a v).isIo = false) :
    Progress io s (s.readCycle kind a).2 :=
  madeOr_progress (((beforeCycle_progress s).trans (memorySystemRead_progress _ a)).trans
    (record_progress _ _ (by simp [hk])))

theorem memRead_progress (s : State) (a : Word) : Progress io s (s.memRead a).2 := readCycle_progress s _ a fun _ => rfl

theorem memWrite_progress (s : State) (a : Word) (v : Byte) : Progress io s (s.memWrite a v) := by
  refine madeOr_progress ?_
  dsimp only
  split
  · exact beforeCycle_progress s
  · exact ((beforeCycle_progress s).trans (memorySystemWrite_progress _ a v)).trans
      (record_progress _ _ (by simp [BusCycle.isIo, BusCycle.isIoRead, BusCycle.isIoWrite]))

theorem ioRead_progress (s : State) (p : Byte) : Progress BusCycle.isIoRead s (s.ioRead p).2 := by
  refine madeOr_progress ((beforeCycle_progress s).trans (Progress.trans ?_ (record_progress _ _ fun _ => rfl)))
  split <;> exact .still rfl rfl rfl rfl rfl rfl id

theorem ioWrite_progress (s : State) (p v : Byte) : Progress BusCycle.isIoWrite s (s.ioWrite p v) :=
  madeOr_progress ((beforeCycle_progress s).trans (record_progress _ _ fun _ => rfl))

theorem intaRead_progress (s : State) (v : Byte) : Progress io s (s.intaRead v).2 :=
  madeOr_progress ((beforeCycle_progress s).trans
    (record_progress _ _ (by simp [BusCycle.isIo, BusCycle.isIoRead, BusCycle.isIoWrite])))

/-! ## Operations of several cycles -/

theorem push16_progress (s : State) (v : Word) : Progress io s (s.push16 v) :=
  ((memWrite_progress s _ _).trans (memWrite_progress _ _ _)).setSp _

theorem pop16_progress (s : State) : Progress io s s.pop16.2 :=
  ((memRead_progress s _).trans (memRead_progress _ _)).setSp _

theorem callTo_progress (s : State) (a : Word) : Progress io s (s.callTo a) := (push16_progress s _).setPc _

theorem popPc_progress (s : State) : Progress io s s.popPc := (pop16_progress s).setPc _

theorem loadReg_progress (s : State) (r : Reg) (a : Word) : Progress io s (s.loadReg r a) :=
  (memRead_progress s a).setRegs _

theorem loadHl_progress (s : State) (a : Word) : Progress io s (s.loadHl a) :=
  (loadReg_progress s .l a).trans (loadReg_progress _ .h _)

theorem storeHl_progress (s : State) (a : Word) : Progress io s (s.storeHl a) :=
  (memWrite_progress s _ _).trans (memWrite_progress _ _ _)

theorem withM_progress (s : State) {f : State → Byte → State} (hf : ∀ t b, Progress io t (f t b)) :
    Progress io s (s.withM f) := (memRead_progress s _).trans (hf _ _)

theorem stepM_progress (s : State) (f : Byte → Alu) : Progress io s (s.stepM f) :=
  withM_progress s fun t _ => (memWrite_progress t _ _).setFlags _

theorem jumpIf_progress (s : State) (cond : Cond) (a : Word) : Progress io s (s.jumpIf cond a) := by
  unfold State.jumpIf
  split
  · exact (Progress.refl s).setPc _
  · exact .refl s

theorem callIf_progress (s : State) (cond : Cond) (a : Word) : Progress io s (s.callIf cond a) := by
  unfold State.callIf
  split
  · exact callTo_progress s a
  · exact .refl s

theorem returnIf_progress (s : State) (cond : Cond) : Progress io s (s.returnIf cond) := by
  unfold State.returnIf
  split
  · exact popPc_progress s
  · exact .refl s

theorem accept_progress (s : State) (q : Request) : Progress io s (s.accept q) := (Progress.refl s).setCtl _

theorem acknowledge_progress (h : s.acknowledge = .next t) : Progress io s t := by
  have first := intaRead_progress (io := io) s s.env.inta0
  unfold State.acknowledge at h
  dsimp only at h
  split_ifs at h
  · cases h; exact first
  · cases h; exact first.trans (callTo_progress _ _)
  · cases h; exact ((first.trans (intaRead_progress _ _)).trans (intaRead_progress _ _)).trans (callTo_progress _ _)

theorem enter_progress {q : Request} (h : s.enter q = .next t) : Progress io s t := by
  cases q with
  | restart k => cases h; exact callTo_progress s _
  | intr => exact acknowledge_progress h

/-! ## Instructions -/

/-- The I/O cycles an instruction may make. -/
def ioCyclesOf : Instr → BusCycle → Bool
  | .inp _ => BusCycle.isIoRead
  | .out _ => BusCycle.isIoWrite
  | _ => fun _ => false

theorem progress_of {x : State} (h : Host.Outcome.next x = (.next t : Result)) (p : Progress io s x) : Progress io s t :=
  Host.Outcome.next.inj h ▸ p

theorem setPair_progress (s : State) (rp : Pair) (v : Word) : Progress io s (s.setPair rp v) := by
  cases rp <;> exact .still rfl rfl rfl rfl rfl rfl id

theorem rstv_progress (s : State) : Progress io s (if s.flags.v then s.callTo 0x0040#16 else s) := by
  split
  · exact callTo_progress s _
  · exact .refl s

theorem xthl_progress (s : State) : Progress io s
    (((((s.memRead s.sp).2.memRead (s.sp + 1)).2.memWrite (s.sp + 1) s.regs.h).memWrite s.sp s.regs.l).setRegs
      { s.regs with h := ((s.memRead s.sp).2.memRead (s.sp + 1)).1, l := (s.memRead s.sp).1 }) :=
  ((((memRead_progress s _).trans (memRead_progress _ _)).trans (memWrite_progress _ _ _)).trans
    (memWrite_progress _ _ _)).setRegs _

theorem exec_progress (i : Instr) (h : exec i s = .next t) : Progress (ioCyclesOf i) s t := by
  cases i
  case movRR _ _ => exact progress_of h (.still rfl rfl rfl rfl rfl rfl id)
  case movRM _ => exact progress_of h (loadReg_progress _ _ _)
  case movMR _ => exact progress_of h (memWrite_progress _ _ _)
  case mviR _ _ => exact progress_of h (.still rfl rfl rfl rfl rfl rfl id)
  case mviM _ => exact progress_of h (memWrite_progress _ _ _)
  case lxi _ _ => exact progress_of h (setPair_progress _ _ _)
  case lda _ => exact progress_of h (loadReg_progress _ _ _)
  case sta _ => exact progress_of h (memWrite_progress _ _ _)
  case lhld _ => exact progress_of h (loadHl_progress _ _)
  case shld _ => exact progress_of h (storeHl_progress _ _)
  case ldax _ => exact progress_of h (loadReg_progress _ _ _)
  case stax _ => exact progress_of h (memWrite_progress _ _ _)
  case xchg => exact progress_of h (.still rfl rfl rfl rfl rfl rfl id)
  case addR _ => exact progress_of h (.still rfl rfl rfl rfl rfl rfl id)
  case addM => exact progress_of h (withM_progress _ fun _ _ => .still rfl rfl rfl rfl rfl rfl id)
  case adi _ => exact progress_of h (.still rfl rfl rfl rfl rfl rfl id)
  case adcR _ => exact progress_of h (.still rfl rfl rfl rfl rfl rfl id)
  case adcM => exact progress_of h (withM_progress _ fun _ _ => .still rfl rfl rfl rfl rfl rfl id)
  case aci _ => exact progress_of h (.still rfl rfl rfl rfl rfl rfl id)
  case subR _ => exact progress_of h (.still rfl rfl rfl rfl rfl rfl id)
  case subM => exact progress_of h (withM_progress _ fun _ _ => .still rfl rfl rfl rfl rfl rfl id)
  case sui _ => exact progress_of h (.still rfl rfl rfl rfl rfl rfl id)
  case sbbR _ => exact progress_of h (.still rfl rfl rfl rfl rfl rfl id)
  case sbbM => exact progress_of h (withM_progress _ fun _ _ => .still rfl rfl rfl rfl rfl rfl id)
  case sbi _ => exact progress_of h (.still rfl rfl rfl rfl rfl rfl id)
  case inrR _ => exact progress_of h (.still rfl rfl rfl rfl rfl rfl id)
  case inrM => exact progress_of h (stepM_progress _ _)
  case dcrR _ => exact progress_of h (.still rfl rfl rfl rfl rfl rfl id)
  case dcrM => exact progress_of h (stepM_progress _ _)
  case inx _ => exact progress_of h ((setPair_progress _ _ _).setFlags _)
  case dcx _ => exact progress_of h ((setPair_progress _ _ _).setFlags _)
  case dad _ => exact progress_of h (.still rfl rfl rfl rfl rfl rfl id)
  case daa => exact progress_of h (.still rfl rfl rfl rfl rfl rfl id)
  case anaR _ => exact progress_of h (.still rfl rfl rfl rfl rfl rfl id)
  case anaM => exact progress_of h (withM_progress _ fun _ _ => .still rfl rfl rfl rfl rfl rfl id)
  case ani _ => exact progress_of h (.still rfl rfl rfl rfl rfl rfl id)
  case xraR _ => exact progress_of h (.still rfl rfl rfl rfl rfl rfl id)
  case xraM => exact progress_of h (withM_progress _ fun _ _ => .still rfl rfl rfl rfl rfl rfl id)
  case xri _ => exact progress_of h (.still rfl rfl rfl rfl rfl rfl id)
  case oraR _ => exact progress_of h (.still rfl rfl rfl rfl rfl rfl id)
  case oraM => exact progress_of h (withM_progress _ fun _ _ => .still rfl rfl rfl rfl rfl rfl id)
  case ori _ => exact progress_of h (.still rfl rfl rfl rfl rfl rfl id)
  case cmpR _ => exact progress_of h (.still rfl rfl rfl rfl rfl rfl id)
  case cmpM => exact progress_of h (withM_progress _ fun _ _ => .still rfl rfl rfl rfl rfl rfl id)
  case cpi _ => exact progress_of h (.still rfl rfl rfl rfl rfl rfl id)
  case rlc => exact progress_of h (.still rfl rfl rfl rfl rfl rfl id)
  case rrc => exact progress_of h (.still rfl rfl rfl rfl rfl rfl id)
  case ral => exact progress_of h (.still rfl rfl rfl rfl rfl rfl id)
  case rar => exact progress_of h (.still rfl rfl rfl rfl rfl rfl id)
  case cma => exact progress_of h (.still rfl rfl rfl rfl rfl rfl id)
  case cmc => exact progress_of h (.still rfl rfl rfl rfl rfl rfl id)
  case stc => exact progress_of h (.still rfl rfl rfl rfl rfl rfl id)
  case jmp _ => exact progress_of h (.still rfl rfl rfl rfl rfl rfl id)
  case jnz _ => exact progress_of h (jumpIf_progress _ _ _)
  case jz _ => exact progress_of h (jumpIf_progress _ _ _)
  case jnc _ => exact progress_of h (jumpIf_progress _ _ _)
  case jc _ => exact progress_of h (jumpIf_progress _ _ _)
  case jpo _ => exact progress_of h (jumpIf_progress _ _ _)
  case jpe _ => exact progress_of h (jumpIf_progress _ _ _)
  case jp _ => exact progress_of h (jumpIf_progress _ _ _)
  case jm _ => exact progress_of h (jumpIf_progress _ _ _)
  case call _ => exact progress_of h (callTo_progress _ _)
  case cnz _ => exact progress_of h (callIf_progress _ _ _)
  case cz _ => exact progress_of h (callIf_progress _ _ _)
  case cnc _ => exact progress_of h (callIf_progress _ _ _)
  case cc _ => exact progress_of h (callIf_progress _ _ _)
  case cpo _ => exact progress_of h (callIf_progress _ _ _)
  case cpe _ => exact progress_of h (callIf_progress _ _ _)
  case cp _ => exact progress_of h (callIf_progress _ _ _)
  case cm _ => exact progress_of h (callIf_progress _ _ _)
  case ret => exact progress_of h (popPc_progress _)
  case rnz => exact progress_of h (returnIf_progress _ _)
  case rz => exact progress_of h (returnIf_progress _ _)
  case rnc => exact progress_of h (returnIf_progress _ _)
  case rc => exact progress_of h (returnIf_progress _ _)
  case rpo => exact progress_of h (returnIf_progress _ _)
  case rpe => exact progress_of h (returnIf_progress _ _)
  case rp => exact progress_of h (returnIf_progress _ _)
  case rm => exact progress_of h (returnIf_progress _ _)
  case rst _ => exact progress_of h (callTo_progress _ _)
  case pchl => exact progress_of h (.still rfl rfl rfl rfl rfl rfl id)
  case pushRp _ => exact progress_of h (push16_progress _ _)
  case pushPsw => exact progress_of h (push16_progress _ _)
  case popRp _ => exact progress_of h ((pop16_progress _).setRegs _)
  case popPsw => exact progress_of h (((pop16_progress _).setRegs _).setFlags _)
  case xthl => exact progress_of h (xthl_progress _)
  case sphl => exact progress_of h (.still rfl rfl rfl rfl rfl rfl id)
  case inp _ => exact progress_of h ((ioRead_progress _ _).setRegs _)
  case out _ => exact progress_of h (ioWrite_progress _ _ _)
  case ei => exact progress_of h (.still rfl rfl rfl rfl rfl rfl id)
  case di => exact progress_of h (.still rfl rfl rfl rfl rfl rfl id)
  case hlt => exact progress_of h (.still rfl rfl rfl rfl rfl rfl id)
  case nop => exact progress_of h (.still rfl rfl rfl rfl rfl rfl id)
  case rim => exact progress_of h (.still rfl rfl rfl rfl rfl rfl id)
  case sim => exact progress_of h (.still rfl rfl rfl rfl rfl rfl id)
  case arhl => exact progress_of h (.still rfl rfl rfl rfl rfl rfl id)
  case dsub => exact progress_of h (.still rfl rfl rfl rfl rfl rfl id)
  case jnui _ => exact progress_of h (jumpIf_progress _ _ _)
  case jui _ => exact progress_of h (jumpIf_progress _ _ _)
  case ldhi _ => exact progress_of h (.still rfl rfl rfl rfl rfl rfl id)
  case ldsi _ => exact progress_of h (.still rfl rfl rfl rfl rfl rfl id)
  case lhlx => exact progress_of h (loadHl_progress _ _)
  case rdel => exact progress_of h (.still rfl rfl rfl rfl rfl rfl id)
  case rstv => exact progress_of h (rstv_progress _)
  case shlx => exact progress_of h (storeHl_progress _ _)

end Sys2Proof.Machine
end

