-- ==== Sys2Proof/Laws/Step.lean ====
section
/-! SUPPORT. What a boundary can do, said once: sampling touches the environment and the two latches only; the ways a
boundary ends; what fetching does; what a step can do. -/

namespace Sys2Proof.Machine

variable {s t u : State}

/-! ## Sampling -/

theorem sample_whole (s : State) : s.sample = ((s.setEnv s.sample.env).setInputs s.sample.inputs).setCtl
    { s.ctl with trapL := s.ctl.trapL || s.sample.env.trapEdge, r75 := s.ctl.r75 || s.sample.env.rst75Edge } := by
  unfold State.sample
  split <;> rfl

@[simp] theorem State.sample_regs (s : State) : s.sample.regs = s.regs := by rw [sample_whole]; rfl
@[simp] theorem State.sample_sp (s : State) : s.sample.sp = s.sp := by rw [sample_whole]; rfl
@[simp] theorem State.sample_pc (s : State) : s.sample.pc = s.pc := by rw [sample_whole]; rfl
@[simp] theorem State.sample_flags (s : State) : s.sample.flags = s.flags := by rw [sample_whole]; rfl
@[simp] theorem State.sample_mem (s : State) : s.sample.mem = s.mem := by rw [sample_whole]; rfl
@[simp] theorem State.sample_memMap (s : State) : s.sample.memMap = s.memMap := by rw [sample_whole]; rfl
@[simp] theorem State.sample_draws (s : State) : s.sample.draws = s.draws := by rw [sample_whole]; rfl
@[simp] theorem State.sample_bus (s : State) : s.sample.bus = s.bus := by rw [sample_whole]; rfl
@[simp] theorem State.sample_abandoned (s : State) : s.sample.abandoned = s.abandoned := by rw [sample_whole]; rfl
@[simp] theorem State.sample_suspended (s : State) : s.sample.suspended = s.suspended := by rw [sample_whole]; rfl
@[simp] theorem State.sample_peek (s : State) (a : Word) : s.sample.peek a = s.peek a := by
  simp only [State.peek, State.sample_mem]
@[simp] theorem State.sample_kindAt (s : State) (a : Word) : s.sample.kindAt a = s.kindAt a :=
  kindAt_of_memMap (State.sample_memMap s) a
theorem State.sample_ctl (s : State) : s.sample.ctl =
    { s.ctl with trapL := s.ctl.trapL || s.sample.env.trapEdge, r75 := s.ctl.r75 || s.sample.env.rst75Edge } := by
  conv => lhs; rw [sample_whole]
  rfl

/-! ## The ways a boundary ends -/

/-- A boundary ends in reset, in a hold, in going on with what a hold stopped, in an interrupt, in waiting while halted, or in
an instruction. -/
theorem boundary_cases (s : State) :
    (s.sample.env.resetIn = true ∧ s.boundary = .done s.sample.resetIn) ∨
    (s.sample.env.resetIn = false ∧ s.sample.env.hold = true ∧ s.boundary = .done s.sample.grantBus) ∨
    (s.sample.env.resetIn = false ∧ s.sample.env.hold = false ∧
      ((∃ p, s.suspended = some p ∧ s.boundary = .run p.activity s.sample.releaseBus) ∨
       (s.suspended = none ∧
         ((∃ q, s.sample.releaseBus.request = some q ∧ s.boundary = .run (.entry q) (s.sample.releaseBus.accept q)) ∨
          (s.sample.releaseBus.request = none ∧ s.ctl.halted = true ∧ s.boundary = .done s.sample.releaseBus) ∨
          (s.sample.releaseBus.request = none ∧ s.ctl.halted = false ∧ s.boundary = .run .instruction s.atFetch))))) := by
  have hh : s.sample.releaseBus.ctl.halted = s.ctl.halted := by
    simp only [State.releaseBus, State.setCtl_ctl, State.sample_ctl]
  have hs : s.sample.releaseBus.suspended = s.suspended := by
    simp only [State.releaseBus, State.setCtl_suspended, State.sample_suspended]
  unfold State.boundary
  cases hr : s.sample.env.resetIn
  · cases hd : s.sample.env.hold
    · cases hp : s.suspended with
      | some p => simp [hr, hd, hs, hp]
      | none => cases hq : s.sample.releaseBus.request with
        | some q => simp [hq, hr, hd, hs, hp]
        | none => cases hl : s.ctl.halted <;> simp [hq, hh, hl, hr, hd, hs, hp, State.atFetch]
    · simp [hr, hd]
  · simp [hr]

theorem boundary_executes (h : s.Executes) : s.boundary = .run .instruction s.atFetch := by
  obtain ⟨h1, h2, h3, h4, h5⟩ := h
  rcases boundary_cases s with k | k | ⟨-, -, ⟨p, k, -⟩ | ⟨-, ⟨q, k, -⟩ | k | k⟩⟩
  · simp [h1] at k
  · simp [h2] at k
  · simp [h5] at k
  · simp [h3] at k
  · simp [h4] at k
  · exact k.2.2

theorem step_done (h : s.boundary = .done t) : step s = .next t := by simp only [step, h]

theorem step_run {a : Activity} (h : s.boundary = .run a u) : step s = settle a u (u.perform a) := by simp only [step, h]

theorem setSuspended_none (h : t.suspended = none) : t.setSuspended none = t := by
  cases t; cases h; rfl

theorem settle_over {a : Activity} {v : State} (h : t.abandoned = false) :
    settle a v (.next t) = .next (t.setSuspended none) := by simp [settle, h]

theorem settle_whole {a : Activity} {v : State} (h : t.abandoned = false) (k : t.suspended = none) :
    settle a v (.next t) = .next t := by rw [settle_over h, setSuspended_none k]

theorem settle_refused {a : Activity} {v : State} {o : Result} {r : Refusal} :
    settle a v o = .refused r ↔ o = .refused r := by
  cases o <;> simp [settle]

/-- What a HOLD leaves that stops an activity not stopped before, after the cycles `cs`, the newest first. -/
theorem suspend_first {a : Activity} {v : State} {cs : List BusCycle} (hv : v.suspended = none) (hb : t.bus = cs ++ v.bus) :
    v.suspend a t = ((((((v.setCtl { v.ctl with hlda := true }).setMem t.mem).setEnv t.env).setDraws t.draws).setBus
      (cs ++ v.bus)).setAbandoned false).setSuspended (some { activity := a, made := cs.reverse }) := by
  have hm : cs.length + v.bus.length - v.bus.length = cs.length := Nat.add_sub_cancel ..
  simp only [State.suspend, hv, hb, List.length_append, hm, List.take_left, List.nil_append]
  rfl

/-- If it had been stopped before, the new cycles come after those made then. -/
theorem suspend_again {a : Activity} {v : State} {p : Suspended} {cs : List BusCycle} (hv : v.suspended = some p)
    (hb : t.bus = cs ++ v.bus) :
    v.suspend a t = ((((((v.setCtl { v.ctl with hlda := true }).setMem t.mem).setEnv t.env).setDraws t.draws).setBus
      (cs ++ v.bus)).setAbandoned false).setSuspended (some { activity := a, made := p.made ++ cs.reverse }) := by
  have hm : cs.length + v.bus.length - v.bus.length = cs.length := Nat.add_sub_cancel ..
  simp only [State.suspend, hv, hb, List.length_append, hm, List.take_left]
  rfl

/-- If the end of a step is a next state, the activity came to one, and it was cut by RESET IN, or by HOLD, or is over. -/
theorem settle_next {a : Activity} {v : State} {o : Result} (h : settle a v o = .next t) : ∃ u, o = .next u ∧
    ((u.abandoned = true ∧ u.env.resetIn = true ∧ t = u.resetIn) ∨
     (u.abandoned = true ∧ u.env.resetIn = false ∧ t = v.suspend a u) ∨
     (u.abandoned = false ∧ t = u.setSuspended none)) := by
  cases o with
  | next u =>
    refine ⟨u, rfl, ?_⟩
    simp only [settle, Host.Outcome.next.injEq] at h
    cases ha : u.abandoned <;> cases hr : u.env.resetIn <;> simp [ha, hr] at h <;> simp [h]
  | fault f => nomatch f
  | refused r => cases h

/-! ## Fetching -/

theorem fetchByte_quiet (kind : Word → Byte → BusCycle) (h : s.Quiet) (hp : s.Populated s.pc) :
    s.fetchByte kind = (s.peek s.pc, (s.setBus (kind s.pc (s.peek s.pc) :: s.bus)).setPc (s.pc + 1)) := by
  simp only [State.fetchByte, readCycle_quiet kind h hp]

theorem fetchByte_progress {io : BusCycle → Bool} (s : State) (kind : Word → Byte → BusCycle) (hk : ∀ a v, (kind a v).isIo = false) :
    Progress io s (s.fetchByte kind).2 := (readCycle_progress s kind _ (hk _)).setPc _

theorem fetchThird_progress {io : BusCycle → Bool} (s : State) (opcode : Byte) : Progress io s (s.fetchThird opcode).2 := by
  unfold State.fetchThird
  split
  · exact fetchByte_progress s _ fun _ _ => rfl
  · split
    · exact fetchByte_progress s _ fun _ _ => rfl
    · exact (Progress.refl s).setPc _

theorem fetchInstr_progress {io : BusCycle → Bool} (s : State) : Progress io s s.fetchInstr.2 := by
  have h0 : Progress io s (s.fetchByte .opcodeFetch).2 := fetchByte_progress s _ fun _ _ => rfl
  unfold State.fetchInstr
  dsimp only
  split
  · exact h0
  · exact h0.trans (fetchByte_progress _ _ fun _ _ => rfl)
  · exact (h0.trans (fetchByte_progress _ _ fun _ _ => rfl)).trans (fetchThird_progress _ _)

/-- What fetching leaves alone. -/
structure FetchKept (s t : State) : Prop where
  regs : t.regs = s.regs
  sp : t.sp = s.sp
  flags : t.flags = s.flags
  ctl : t.ctl = s.ctl

theorem FetchKept.trans (h : FetchKept s t) (k : FetchKept t u) : FetchKept s u :=
  ⟨k.regs.trans h.regs, k.sp.trans h.sp, k.flags.trans h.flags, k.ctl.trans h.ctl⟩

theorem fetchByte_kept (s : State) (kind : Word → Byte → BusCycle) : FetchKept s (s.fetchByte kind).2 :=
  ⟨State.readCycle_regs s kind _, State.readCycle_sp s kind _, State.readCycle_flags s kind _, State.readCycle_ctl s kind _⟩

theorem fetchThird_kept (s : State) (opcode : Byte) : FetchKept s (s.fetchThird opcode).2 := by
  unfold State.fetchThird
  split
  · exact fetchByte_kept s _
  · split
    · exact fetchByte_kept s _
    · exact ⟨rfl, rfl, rfl, rfl⟩

theorem fetchInstr_kept (s : State) : FetchKept s s.fetchInstr.2 := by
  have h0 := fetchByte_kept s .opcodeFetch
  unfold State.fetchInstr
  dsimp only
  split
  · exact h0
  · exact h0.trans (fetchByte_kept _ _)
  · exact (h0.trans (fetchByte_kept _ _)).trans (fetchThird_kept _ _)

/-! ## What a step can do -/

theorem exec_next (i : Instr) (s : State) : ∃ t, exec i s = .next t := by
  cases i <;> exact ⟨_, rfl⟩

theorem Progress.weaken {io : BusCycle → Bool} (h : Progress io s t) : Progress (fun _ => true) s t :=
  { h with bus := h.bus.imp fun _ k => ⟨k.1, fun _ _ _ => rfl⟩ }

theorem releaseBus_progress {io : BusCycle → Bool} (s : State) : Progress io s s.releaseBus := (Progress.refl s).setCtl _

theorem atFetch_progress {io : BusCycle → Bool} (s : State) : Progress io s.sample s.atFetch :=
  (releaseBus_progress _).setCtl _

theorem grantBus_progress {io : BusCycle → Bool} (s : State) : Progress io s s.grantBus :=
  ((Progress.refl s).setCtl _).trans (masterWrites_progress _ _)

theorem perform_progress {a : Activity} (h : s.perform a = .next t) : Progress (fun _ => true) s t := by
  cases a with
  | entry q => exact enter_progress h
  | instruction => exact (fetchInstr_progress s).trans (exec_progress _ h).weaken

/-- What an activity begins or goes on in: the sampled state, but for the control state; with neither RESET IN nor HOLD. -/
theorem run_begins {a : Activity} {v : State} (h : s.boundary = .run a v) :
    s.sample.env.resetIn = false ∧ s.sample.env.hold = false ∧ v = s.sample.setCtl v.ctl ∧
    v.ctl.m75 = s.ctl.m75 ∧ v.ctl.m65 = s.ctl.m65 ∧ v.ctl.m55 = s.ctl.m55 ∧
    (s.suspended = none → v.ctl.eiPend = false ∧ v.ctl.halted = false) ∧
    (s.suspended ≠ none → v.ctl.eiPend = s.ctl.eiPend ∧ v.ctl.halted = s.ctl.halted) := by
  rcases boundary_cases s with ⟨-, j⟩ | ⟨-, -, j⟩ | ⟨hr, hd, ⟨p, hp, j⟩ | ⟨hp, ⟨q, -, j⟩ | ⟨-, -, j⟩ | ⟨-, hl, j⟩⟩⟩
  · rw [j] at h; cases h
  · rw [j] at h; cases h
  · rw [j] at h; cases h
    exact ⟨hr, hd, rfl, by simp [State.releaseBus, State.sample_ctl, hp]⟩
  · rw [j] at h; cases h
    refine ⟨hr, hd, rfl, ?_⟩
    rcases q with ⟨_ | _ | _ | _⟩ | _ <;>
      simp [State.accept, Control.onRequest, Control.onRestart, Control.onInterrupt, State.releaseBus, State.sample_ctl, hp]
  · rw [j] at h; cases h
  · rw [j] at h; cases h
    exact ⟨hr, hd, rfl, by simp [State.atFetch, State.clearEiPend, State.releaseBus, State.sample_ctl, hp, hl]⟩

theorem run_progress {a : Activity} {v : State} {io : BusCycle → Bool} (h : s.boundary = .run a v) :
    Progress io s.sample v := by
  rw [(run_begins h).2.2.1]; exact (Progress.refl _).setCtl _

/-- How a step ends that ran an activity: RESET IN or HOLD cut it, or it is over. -/
theorem run_next {a : Activity} {v : State} (j : s.boundary = .run a v) (h : step s = .next t) :
    ∃ u, v.perform a = .next u ∧ Progress (fun _ => true) v u ∧
      ((u.abandoned = true ∧ u.env.resetIn = true ∧ t = u.resetIn) ∨
       (u.abandoned = true ∧ u.env.resetIn = false ∧ t = v.suspend a u) ∨
       (u.abandoned = false ∧ t = u.setSuspended none)) := by
  rw [step_run j] at h
  obtain ⟨u, hu, k⟩ := settle_next h
  exact ⟨u, hu, perform_progress hu, k⟩

/-- If a step answers a next state: RESET IN made it, at the boundary or in the middle; or the bus was granted at the boundary;
or the machine is halted and waits; or an activity was stopped by a HOLD; or an activity was brought to its end. -/
theorem step_next (h : step s = .next t) :
    (∃ u, t = u.resetIn ∧ u.env.resetIn = true ∧ Progress (fun _ => true) s.sample u) ∨
    (t = s.sample.grantBus ∧ s.sample.env.hold = true) ∨
    (t = s.sample.releaseBus ∧ s.ctl.halted = true ∧ s.suspended = none) ∨
    (∃ a v u, s.boundary = .run a v ∧ v.perform a = .next u ∧ Progress (fun _ => true) v u ∧
      ((u.abandoned = true ∧ u.env.resetIn = false ∧ t = v.suspend a u) ∨
       (u.abandoned = false ∧ t = u.setSuspended none))) := by
  by_cases k : ∃ a v, s.boundary = .run a v
  · obtain ⟨a, v, j⟩ := k
    obtain ⟨u, hu, p, ⟨-, k, e⟩ | k | k⟩ := run_next j h
    · exact .inl ⟨u, e, k, (run_progress j).trans p⟩
    · exact .inr (.inr (.inr ⟨a, v, u, j, hu, p, .inl k⟩))
    · exact .inr (.inr (.inr ⟨a, v, u, j, hu, p, .inr k⟩))
  · rcases boundary_cases s with ⟨hr, j⟩ | ⟨-, hd, j⟩ | ⟨-, -, ⟨p, -, j⟩ | ⟨hn, ⟨q, -, j⟩ | ⟨-, hh, j⟩ | ⟨-, -, j⟩⟩⟩
    · rw [step_done j] at h
      exact .inl ⟨s.sample, (Host.Outcome.next.inj h).symm, hr, .refl _⟩
    · rw [step_done j] at h
      exact .inr (.inl ⟨(Host.Outcome.next.inj h).symm, hd⟩)
    · exact absurd ⟨_, _, j⟩ k
    · exact absurd ⟨_, _, j⟩ k
    · rw [step_done j] at h
      exact .inr (.inr (.inl ⟨(Host.Outcome.next.inj h).symm, hh, hn⟩))
    · exact absurd ⟨_, _, j⟩ k

end Sys2Proof.Machine
end

