-- ==== Sys2Proof/Machine/Timing.lean ====
section
/-! DEFINITION. The timing the spec gives as information (70_reset_and_hazards.md R363, R364). Timing is not modelled
(R368): no rule of the model reads these figures, and `step` does not. -/

namespace Sys2Proof.Machine

/-- The clock periods of an instruction executed with flags `f`, without wait states or HOLD (70_reset_and_hazards.md R363,
R364). -/
def clockPeriods (f : Flags) : Instr → Nat
  | .movRR _ _ => 4
  | .movRM _ => 7
  | .movMR _ => 7
  | .mviR _ _ => 7
  | .mviM _ => 10
  | .lxi _ _ => 10
  | .lda _ => 13
  | .sta _ => 13
  | .lhld _ => 16
  | .shld _ => 16
  | .ldax _ => 7
  | .stax _ => 7
  | .xchg => 4
  | .addR _ => 4
  | .addM => 7
  | .adi _ => 7
  | .adcR _ => 4
  | .adcM => 7
  | .aci _ => 7
  | .subR _ => 4
  | .subM => 7
  | .sui _ => 7
  | .sbbR _ => 4
  | .sbbM => 7
  | .sbi _ => 7
  | .inrR _ => 4
  | .inrM => 10
  | .dcrR _ => 4
  | .dcrM => 10
  | .inx _ => 6
  | .dcx _ => 6
  | .dad _ => 10
  | .daa => 4
  | .anaR _ => 4
  | .anaM => 7
  | .ani _ => 7
  | .xraR _ => 4
  | .xraM => 7
  | .xri _ => 7
  | .oraR _ => 4
  | .oraM => 7
  | .ori _ => 7
  | .cmpR _ => 4
  | .cmpM => 7
  | .cpi _ => 7
  | .rlc => 4
  | .rrc => 4
  | .ral => 4
  | .rar => 4
  | .cma => 4
  | .cmc => 4
  | .stc => 4
  | .jmp _ => 10
  | .jnz _ => if Cond.holds f .nz then 10 else 7
  | .jz _ => if Cond.holds f .z then 10 else 7
  | .jnc _ => if Cond.holds f .nc then 10 else 7
  | .jc _ => if Cond.holds f .c then 10 else 7
  | .jpo _ => if Cond.holds f .po then 10 else 7
  | .jpe _ => if Cond.holds f .pe then 10 else 7
  | .jp _ => if Cond.holds f .p then 10 else 7
  | .jm _ => if Cond.holds f .m then 10 else 7
  | .call _ => 18
  | .cnz _ => if Cond.holds f .nz then 18 else 9
  | .cz _ => if Cond.holds f .z then 18 else 9
  | .cnc _ => if Cond.holds f .nc then 18 else 9
  | .cc _ => if Cond.holds f .c then 18 else 9
  | .cpo _ => if Cond.holds f .po then 18 else 9
  | .cpe _ => if Cond.holds f .pe then 18 else 9
  | .cp _ => if Cond.holds f .p then 18 else 9
  | .cm _ => if Cond.holds f .m then 18 else 9
  | .ret => 10
  | .rnz => if Cond.holds f .nz then 12 else 6
  | .rz => if Cond.holds f .z then 12 else 6
  | .rnc => if Cond.holds f .nc then 12 else 6
  | .rc => if Cond.holds f .c then 12 else 6
  | .rpo => if Cond.holds f .po then 12 else 6
  | .rpe => if Cond.holds f .pe then 12 else 6
  | .rp => if Cond.holds f .p then 12 else 6
  | .rm => if Cond.holds f .m then 12 else 6
  | .rst _ => 12
  | .pchl => 6
  | .pushRp _ => 12
  | .pushPsw => 12
  | .popRp _ => 10
  | .popPsw => 10
  | .xthl => 16
  | .sphl => 6
  | .inp _ => 10
  | .out _ => 10
  | .ei => 4
  | .di => 4
  | .hlt => 5
  | .nop => 4
  | .rim => 4
  | .sim => 4
  | .arhl => 7
  | .dsub => 10
  | .jnui _ => if Cond.holds f .nui then 10 else 7
  | .jui _ => if Cond.holds f .ui then 10 else 7
  | .ldhi _ => 10
  | .ldsi _ => 10
  | .lhlx => 10
  | .rdel => 10
  | .rstv => if f.v then 12 else 6
  | .shlx => 10

/-- The machine cycles Table 2-10 gives for the extended instructions (70_reset_and_hazards.md R363); the source gives none
for the others. -/
def extendedCycles (f : Flags) : Instr → Option Nat
  | .arhl => some 2
  | .dsub => some 3
  | .jnui _ => some (if Cond.holds f .nui then 3 else 2)
  | .jui _ => some (if Cond.holds f .ui then 3 else 2)
  | .ldhi _ => some 3
  | .ldsi _ => some 3
  | .lhlx => some 3
  | .rdel => some 3
  | .rstv => some (if f.v then 3 else 1)
  | .shlx => some 3
  | _ => none

/-- The clock periods of the entry of a restart interrupt (70_reset_and_hazards.md R364). -/
def restartEntryPeriods : Nat := 12

/-- The clock periods of an INTR answered with RST n, and with CALL (70_reset_and_hazards.md R364). -/
def intrEntryPeriods (call : Bool) : Nat := if call then 18 else 12

end Sys2Proof.Machine
end

