-- ==== Sys2Proof/Tests/Slice0.lean ====
section
/-! SUPPORT. Tests of the model: the well-formedness smoke test; decoding, from words written out from the encodings of
opcode_table.json; one step of each instruction, the expected results from 95_test_vectors.md (V<n>) or from the example of
the rule named; interrupts, RESET IN and HOLD; and, for each statement with hypotheses, a state that meets them all. -/

namespace Sys2Proof.Tests

open Sys2Proof Sys2Proof.Machine

/-! ## Helpers -/

/-- The flags as the bits of a flag byte. -/
def flagsFrom (f : Byte) : Flags :=
  ⟨f.getLsbD 7, f.getLsbD 6, f.getLsbD 5, f.getLsbD 4, f.getLsbD 2, f.getLsbD 1, f.getLsbD 0⟩

/-- Bytes put in RAM. -/
def ram (cells : List (Word × Byte)) : Memory := cells.foldl (fun m c => m.write c.1.toNat c.2) []

/-- A machine as reset leaves it, but for its registers, its flags, an instruction at 0100H where pc stands, and some bytes
of RAM. -/
def cpu (regs : Regs) (sp : Word) (f : Byte) (code : List Byte) (cells : List (Word × Byte)) : State :=
  { State.reset with
    regs := regs
    sp := sp
    pc := 0x0100#16
    flags := flagsFrom f
    mem := ram (cells ++ [0x0100#16, 0x0101#16, 0x0102#16].zip code) }

/-- The next step leaves a state of which `p` holds. -/
def after (s : State) (p : State → Bool) : Bool :=
  match step s with
  | .next t => p t
  | .fault _ => false
  | .refused _ => false

/-- The flags for which `care` has a 1 are those of `f`; the others are open. -/
def agrees (x : Flags) (care f : Byte) : Bool :=
  (!care.getLsbD 7 || x.s == f.getLsbD 7) && (!care.getLsbD 6 || x.z == f.getLsbD 6) &&
  (!care.getLsbD 5 || x.ui == f.getLsbD 5) && (!care.getLsbD 4 || x.ac == f.getLsbD 4) &&
  (!care.getLsbD 2 || x.p == f.getLsbD 2) && (!care.getLsbD 1 || x.v == f.getLsbD 1) &&
  (!care.getLsbD 0 || x.cy == f.getLsbD 0)

/-- The decoder reads these bytes, all of them, as this instruction. -/
def reads (x : List Byte × Instr) : Bool :=
  match decode x.1 with
  | .ok (i, rest) => i == x.2 && rest == []
  | .error _ => false

/-! ## One step of each instruction -/

/-- V4, `MOV H,L` -/
theorem test_movRR : after (cpu ⟨0x11, 0x22, 0x33, 0x44, 0x55, 0x12, 0xAB⟩ 0x7777 0x00 [0x65#8] [])
    (fun t => t.regs == ⟨0x11, 0x22, 0x33, 0x44, 0x55, 0xAB, 0xAB⟩ && t.sp == 0x7777#16 && t.pc == 0x0101#16 &&
      agrees t.flags 0xF7 0x00 && t.ctl == Control.afterReset) = true := by decide

/-- V2, `MOV A,M` -/
theorem test_movRM : after (cpu ⟨0x00, 0x22, 0x33, 0x44, 0x55, 0x20, 0x50⟩ 0x7777 0x00 [0x7E#8] [(0x2050#16, 0xC3#8)])
    (fun t => t.regs == ⟨0xC3, 0x22, 0x33, 0x44, 0x55, 0x20, 0x50⟩ && t.sp == 0x7777#16 && t.pc == 0x0101#16 &&
      agrees t.flags 0xF7 0x00 && t.ctl == Control.afterReset) = true := by decide

/-- R122 -/
theorem test_movRM_overwrites_its_address :
    after (cpu ⟨0x11, 0x22, 0x33, 0x44, 0x55, 0x20, 0x50⟩ 0x7777 0x00 [0x66#8] [(0x2050#16, 0x9A#8)])
    (fun t => t.regs == ⟨0x11, 0x22, 0x33, 0x44, 0x55, 0x9A, 0x50⟩ && t.sp == 0x7777#16 && t.pc == 0x0101#16 &&
      agrees t.flags 0xF7 0x00 && t.ctl == Control.afterReset) = true := by decide

/-- V3, `MOV M,E` -/
theorem test_movMR : after (cpu ⟨0x11, 0x22, 0x33, 0x44, 0x9D, 0xFF, 0xFF⟩ 0x7777 0x00 [0x73#8] [])
    (fun t => t.regs == ⟨0x11, 0x22, 0x33, 0x44, 0x9D, 0xFF, 0xFF⟩ && t.sp == 0x7777#16 && t.pc == 0x0101#16 &&
      agrees t.flags 0xF7 0x00 && t.peek 0xFFFF == 0x9D#8 && t.ctl == Control.afterReset) = true := by decide

/-- V5, `MVI C,0FFH` -/
theorem test_mviR : after (cpu ⟨0x11, 0x22, 0x00, 0x44, 0x55, 0x66, 0x77⟩ 0x7777 0xF7 [0x0E#8, 0xFF#8] [])
    (fun t => t.regs == ⟨0x11, 0x22, 0xFF, 0x44, 0x55, 0x66, 0x77⟩ && t.sp == 0x7777#16 && t.pc == 0x0102#16 &&
      agrees t.flags 0xF7 0xF7 && t.ctl == Control.afterReset) = true := by decide

/-- V6, `MVI M,3CH` -/
theorem test_mviM : after (cpu ⟨0x11, 0x22, 0x33, 0x44, 0x55, 0x40, 0x00⟩ 0x7777 0x00 [0x36#8, 0x3C#8] [])
    (fun t => t.regs == ⟨0x11, 0x22, 0x33, 0x44, 0x55, 0x40, 0x00⟩ && t.sp == 0x7777#16 && t.pc == 0x0102#16 &&
      agrees t.flags 0xF7 0x00 && t.peek 0x4000 == 0x3C#8 && t.ctl == Control.afterReset) = true := by decide

/-- V7, `LXI B,1234H` -/
theorem test_lxi : after (cpu ⟨0x11, 0x00, 0x00, 0x44, 0x55, 0x66, 0x77⟩ 0x7777 0x00 [0x01#8, 0x34#8, 0x12#8] [])
    (fun t => t.regs == ⟨0x11, 0x12, 0x34, 0x44, 0x55, 0x66, 0x77⟩ && t.sp == 0x7777#16 && t.pc == 0x0103#16 &&
      agrees t.flags 0xF7 0x00 && t.ctl == Control.afterReset) = true := by decide

/-- V8, `LXI SP,0FFFEH` -/
theorem test_lxi_sp : after (cpu ⟨0x11, 0x22, 0x33, 0x44, 0x55, 0x66, 0x77⟩ 0x7777 0x00 [0x31#8, 0xFE#8, 0xFF#8] [])
    (fun t => t.regs == ⟨0x11, 0x22, 0x33, 0x44, 0x55, 0x66, 0x77⟩ && t.sp == 0xFFFE#16 && t.pc == 0x0103#16 &&
      agrees t.flags 0xF7 0x00 && t.ctl == Control.afterReset) = true := by decide

/-- V9, `LDA 2000H` -/
theorem test_lda :
    after (cpu ⟨0x11, 0x22, 0x33, 0x44, 0x55, 0x66, 0x77⟩ 0x7777 0x00 [0x3A#8, 0x00#8, 0x20#8] [(0x2000#16, 0x77#8)])
    (fun t => t.regs == ⟨0x77, 0x22, 0x33, 0x44, 0x55, 0x66, 0x77⟩ && t.sp == 0x7777#16 && t.pc == 0x0103#16 &&
      agrees t.flags 0xF7 0x00 && t.ctl == Control.afterReset) = true := by decide

/-- V10, `STA 0FFFFH` -/
theorem test_sta : after (cpu ⟨0x11, 0x22, 0x33, 0x44, 0x55, 0x66, 0x77⟩ 0x7777 0x00 [0x32#8, 0xFF#8, 0xFF#8] [])
    (fun t => t.regs == ⟨0x11, 0x22, 0x33, 0x44, 0x55, 0x66, 0x77⟩ && t.sp == 0x7777#16 && t.pc == 0x0103#16 &&
      agrees t.flags 0xF7 0x00 && t.peek 0xFFFF == 0x11#8 && t.ctl == Control.afterReset) = true := by decide

/-- V11, `LHLD 0FFFFH` -/
theorem test_lhld_wraps :
    after (cpu ⟨0x11, 0x22, 0x33, 0x44, 0x55, 0x66, 0x77⟩ 0x7777 0x00 [0x2A#8, 0xFF#8, 0xFF#8]
      [(0x0000#16, 0xAB#8), (0xFFFF#16, 0xCD#8)])
    (fun t => t.regs == ⟨0x11, 0x22, 0x33, 0x44, 0x55, 0xAB, 0xCD⟩ && t.sp == 0x7777#16 && t.pc == 0x0103#16 &&
      agrees t.flags 0xF7 0x00 && t.ctl == Control.afterReset) = true := by decide

/-- V12, `SHLD 3000H` -/
theorem test_shld : after (cpu ⟨0x11, 0x22, 0x33, 0x44, 0x55, 0xBE, 0xEF⟩ 0x7777 0x00 [0x22#8, 0x00#8, 0x30#8] [])
    (fun t => t.regs == ⟨0x11, 0x22, 0x33, 0x44, 0x55, 0xBE, 0xEF⟩ && t.sp == 0x7777#16 && t.pc == 0x0103#16 &&
      agrees t.flags 0xF7 0x00 && t.peek 0x3000 == 0xEF#8 && t.peek 0x3001 == 0xBE#8 &&
      t.ctl == Control.afterReset) = true := by decide

/-- V13, `LDAX D` -/
theorem test_ldax : after (cpu ⟨0x11, 0x22, 0x33, 0x33, 0x44, 0x66, 0x77⟩ 0x7777 0x00 [0x1A#8] [(0x3344#16, 0x99#8)])
    (fun t => t.regs == ⟨0x99, 0x22, 0x33, 0x33, 0x44, 0x66, 0x77⟩ && t.sp == 0x7777#16 && t.pc == 0x0101#16 &&
      agrees t.flags 0xF7 0x00 && t.ctl == Control.afterReset) = true := by decide

/-- V14, `STAX B` -/
theorem test_stax : after (cpu ⟨0x42, 0x80, 0x00, 0x44, 0x55, 0x66, 0x77⟩ 0x7777 0x00 [0x02#8] [])
    (fun t => t.regs == ⟨0x42, 0x80, 0x00, 0x44, 0x55, 0x66, 0x77⟩ && t.sp == 0x7777#16 && t.pc == 0x0101#16 &&
      agrees t.flags 0xF7 0x00 && t.peek 0x8000 == 0x42#8 && t.ctl == Control.afterReset) = true := by decide

/-- V15, `XCHG` -/
theorem test_xchg : after (cpu ⟨0x11, 0x22, 0x33, 0x11, 0x22, 0x33, 0x44⟩ 0x7777 0x00 [0xEB#8] [])
    (fun t => t.regs == ⟨0x11, 0x22, 0x33, 0x33, 0x44, 0x11, 0x22⟩ && t.sp == 0x7777#16 && t.pc == 0x0101#16 &&
      agrees t.flags 0xF7 0x00 && t.ctl == Control.afterReset) = true := by decide

/-- V16, `ADD B` -/
theorem test_addR_carries : after (cpu ⟨0xFF, 0x01, 0x33, 0x44, 0x55, 0x66, 0x77⟩ 0x7777 0x00 [0x80#8] [])
    (fun t => t.regs == ⟨0x00, 0x01, 0x33, 0x44, 0x55, 0x66, 0x77⟩ && t.sp == 0x7777#16 && t.pc == 0x0101#16 &&
      agrees t.flags 0xF7 0x55 && t.ctl == Control.afterReset) = true := by decide

/-- V17, `ADD B` -/
theorem test_addR_overflows : after (cpu ⟨0x7F, 0x01, 0x33, 0x44, 0x55, 0x66, 0x77⟩ 0x7777 0x00 [0x80#8] [])
    (fun t => t.regs == ⟨0x80, 0x01, 0x33, 0x44, 0x55, 0x66, 0x77⟩ && t.sp == 0x7777#16 && t.pc == 0x0101#16 &&
      agrees t.flags 0xF7 0x92 && t.ctl == Control.afterReset) = true := by decide

/-- R142 -/
theorem test_addM : after (cpu ⟨0xF0, 0x22, 0x33, 0x44, 0x55, 0x20, 0x00⟩ 0x7777 0x00 [0x86#8] [(0x2000#16, 0x10#8)])
    (fun t => t.regs == ⟨0x00, 0x22, 0x33, 0x44, 0x55, 0x20, 0x00⟩ && t.sp == 0x7777#16 && t.pc == 0x0101#16 &&
      agrees t.flags 0xF7 0x45 && t.ctl == Control.afterReset) = true := by decide

/-- V19, `ADI 0D0H` -/
theorem test_adi : after (cpu ⟨0x50, 0x22, 0x33, 0x44, 0x55, 0x66, 0x77⟩ 0x7777 0x00 [0xC6#8, 0xD0#8] [])
    (fun t => t.regs == ⟨0x20, 0x22, 0x33, 0x44, 0x55, 0x66, 0x77⟩ && t.sp == 0x7777#16 && t.pc == 0x0102#16 &&
      agrees t.flags 0xF7 0x01 && t.ctl == Control.afterReset) = true := by decide

/-- V20, `ADC C` -/
theorem test_adcR : after (cpu ⟨0x0F, 0x22, 0x00, 0x44, 0x55, 0x66, 0x77⟩ 0x7777 0x01 [0x89#8] [])
    (fun t => t.regs == ⟨0x10, 0x22, 0x00, 0x44, 0x55, 0x66, 0x77⟩ && t.sp == 0x7777#16 && t.pc == 0x0101#16 &&
      agrees t.flags 0xF7 0x10 && t.ctl == Control.afterReset) = true := by decide

/-- R145 -/
theorem test_adcM : after (cpu ⟨0xFF, 0x22, 0x33, 0x44, 0x55, 0x20, 0x00⟩ 0x7777 0x01 [0x8E#8] [(0x2000#16, 0x00#8)])
    (fun t => t.regs == ⟨0x00, 0x22, 0x33, 0x44, 0x55, 0x20, 0x00⟩ && t.sp == 0x7777#16 && t.pc == 0x0101#16 &&
      agrees t.flags 0xF7 0x55 && t.ctl == Control.afterReset) = true := by decide

/-- V21, `ACI 0FFH` -/
theorem test_aci : after (cpu ⟨0x00, 0x22, 0x33, 0x44, 0x55, 0x66, 0x77⟩ 0x7777 0x01 [0xCE#8, 0xFF#8] [])
    (fun t => t.regs == ⟨0x00, 0x22, 0x33, 0x44, 0x55, 0x66, 0x77⟩ && t.sp == 0x7777#16 && t.pc == 0x0102#16 &&
      agrees t.flags 0xF7 0x55 && t.ctl == Control.afterReset) = true := by decide

/-- V22, `SUB B` -/
theorem test_subR_borrows : after (cpu ⟨0x00, 0x01, 0x33, 0x44, 0x55, 0x66, 0x77⟩ 0x7777 0x00 [0x90#8] [])
    (fun t => t.regs == ⟨0xFF, 0x01, 0x33, 0x44, 0x55, 0x66, 0x77⟩ && t.sp == 0x7777#16 && t.pc == 0x0101#16 &&
      agrees t.flags 0xF7 0xA5 && t.ctl == Control.afterReset) = true := by decide

/-- V23, `SUB A` -/
theorem test_subR_self : after (cpu ⟨0x3E, 0x22, 0x33, 0x44, 0x55, 0x66, 0x77⟩ 0x7777 0xA3 [0x97#8] [])
    (fun t => t.regs == ⟨0x00, 0x22, 0x33, 0x44, 0x55, 0x66, 0x77⟩ && t.sp == 0x7777#16 && t.pc == 0x0101#16 &&
      agrees t.flags 0xF7 0x54 && t.ctl == Control.afterReset) = true := by decide

/-- R148 -/
theorem test_subM : after (cpu ⟨0x80, 0x22, 0x33, 0x44, 0x55, 0x20, 0x00⟩ 0x7777 0x00 [0x96#8] [(0x2000#16, 0x01#8)])
    (fun t => t.regs == ⟨0x7F, 0x22, 0x33, 0x44, 0x55, 0x20, 0x00⟩ && t.sp == 0x7777#16 && t.pc == 0x0101#16 &&
      agrees t.flags 0xF7 0x22 && t.ctl == Control.afterReset) = true := by decide

/-- V25, `SUI 80H` -/
theorem test_sui_overflows : after (cpu ⟨0x7F, 0x22, 0x33, 0x44, 0x55, 0x66, 0x77⟩ 0x7777 0x00 [0xD6#8, 0x80#8] [])
    (fun t => t.regs == ⟨0xFF, 0x22, 0x33, 0x44, 0x55, 0x66, 0x77⟩ && t.sp == 0x7777#16 && t.pc == 0x0102#16 &&
      agrees t.flags 0xF7 0x97 && t.ctl == Control.afterReset) = true := by decide

/-- V26, `SBB L` -/
theorem test_sbbR : after (cpu ⟨0x10, 0x22, 0x33, 0x44, 0x55, 0x66, 0x0F⟩ 0x7777 0x01 [0x9D#8] [])
    (fun t => t.regs == ⟨0x00, 0x22, 0x33, 0x44, 0x55, 0x66, 0x0F⟩ && t.sp == 0x7777#16 && t.pc == 0x0101#16 &&
      agrees t.flags 0xF7 0x44 && t.ctl == Control.afterReset) = true := by decide

/-- R151 -/
theorem test_sbbM : after (cpu ⟨0x00, 0x22, 0x33, 0x44, 0x55, 0x20, 0x00⟩ 0x7777 0x01 [0x9E#8] [(0x2000#16, 0xFF#8)])
    (fun t => t.regs == ⟨0x00, 0x22, 0x33, 0x44, 0x55, 0x20, 0x00⟩ && t.sp == 0x7777#16 && t.pc == 0x0101#16 &&
      agrees t.flags 0xF7 0x45 && t.ctl == Control.afterReset) = true := by decide

/-- V27, `SBI 0FFH` -/
theorem test_sbi : after (cpu ⟨0x00, 0x22, 0x33, 0x44, 0x55, 0x66, 0x77⟩ 0x7777 0x00 [0xDE#8, 0xFF#8] [])
    (fun t => t.regs == ⟨0x01, 0x22, 0x33, 0x44, 0x55, 0x66, 0x77⟩ && t.sp == 0x7777#16 && t.pc == 0x0102#16 &&
      agrees t.flags 0xF7 0x01 && t.ctl == Control.afterReset) = true := by decide

/-- V29, `INR B` -/
theorem test_inrR : after (cpu ⟨0x11, 0x7F, 0x33, 0x44, 0x55, 0x66, 0x77⟩ 0x7777 0x01 [0x04#8] [])
    (fun t => t.regs == ⟨0x11, 0x80, 0x33, 0x44, 0x55, 0x66, 0x77⟩ && t.sp == 0x7777#16 && t.pc == 0x0101#16 &&
      agrees t.flags 0xF7 0x93 && t.ctl == Control.afterReset) = true := by decide

/-- V30, `INR M` -/
theorem test_inrM : after (cpu ⟨0x11, 0x22, 0x33, 0x44, 0x55, 0x20, 0x00⟩ 0x7777 0x00 [0x34#8] [(0x2000#16, 0x0F#8)])
    (fun t => t.regs == ⟨0x11, 0x22, 0x33, 0x44, 0x55, 0x20, 0x00⟩ && t.sp == 0x7777#16 && t.pc == 0x0101#16 &&
      agrees t.flags 0xF7 0x10 && t.peek 0x2000 == 0x10#8 && t.ctl == Control.afterReset) = true := by decide

/-- V31, `DCR C` -/
theorem test_dcrR : after (cpu ⟨0x11, 0x22, 0x00, 0x44, 0x55, 0x66, 0x77⟩ 0x7777 0x00 [0x0D#8] [])
    (fun t => t.regs == ⟨0x11, 0x22, 0xFF, 0x44, 0x55, 0x66, 0x77⟩ && t.sp == 0x7777#16 && t.pc == 0x0101#16 &&
      agrees t.flags 0xF7 0xA4 && t.ctl == Control.afterReset) = true := by decide

/-- V34, `DCR M` -/
theorem test_dcrM : after (cpu ⟨0x11, 0x22, 0x33, 0x44, 0x55, 0x20, 0x00⟩ 0x7777 0x00 [0x35#8] [(0x2000#16, 0x10#8)])
    (fun t => t.regs == ⟨0x11, 0x22, 0x33, 0x44, 0x55, 0x20, 0x00⟩ && t.sp == 0x7777#16 && t.pc == 0x0101#16 &&
      agrees t.flags 0xF7 0x04 && t.peek 0x2000 == 0x0F#8 && t.ctl == Control.afterReset) = true := by decide

/-- V35, `INX H` -/
theorem test_inx : after (cpu ⟨0x11, 0x22, 0x33, 0x44, 0x55, 0xFF, 0xFF⟩ 0x7777 0x00 [0x23#8] [])
    (fun t => t.regs == ⟨0x11, 0x22, 0x33, 0x44, 0x55, 0x00, 0x00⟩ && t.sp == 0x7777#16 && t.pc == 0x0101#16 &&
      agrees t.flags 0xF7 0x20 && t.ctl == Control.afterReset) = true := by decide

/-- V36, `INX SP` -/
theorem test_inx_sp : after (cpu ⟨0x11, 0x22, 0x33, 0x44, 0x55, 0x66, 0x77⟩ 0x00FF 0x20 [0x33#8] [])
    (fun t => t.regs == ⟨0x11, 0x22, 0x33, 0x44, 0x55, 0x66, 0x77⟩ && t.sp == 0x0100#16 && t.pc == 0x0101#16 &&
      agrees t.flags 0xF7 0x00 && t.ctl == Control.afterReset) = true := by decide

/-- V37, `DCX B` -/
theorem test_dcx : after (cpu ⟨0x11, 0x00, 0x00, 0x44, 0x55, 0x66, 0x77⟩ 0x7777 0x00 [0x0B#8] [])
    (fun t => t.regs == ⟨0x11, 0xFF, 0xFF, 0x44, 0x55, 0x66, 0x77⟩ && t.sp == 0x7777#16 && t.pc == 0x0101#16 &&
      agrees t.flags 0xF7 0x20 && t.ctl == Control.afterReset) = true := by decide

/-- V39, `DCX SP` -/
theorem test_dcx_sp : after (cpu ⟨0x11, 0x22, 0x33, 0x44, 0x55, 0x66, 0x77⟩ 0x0000 0xF7 [0x3B#8] [])
    (fun t => t.regs == ⟨0x11, 0x22, 0x33, 0x44, 0x55, 0x66, 0x77⟩ && t.sp == 0xFFFF#16 && t.pc == 0x0101#16 &&
      agrees t.flags 0xF7 0xF7 && t.ctl == Control.afterReset) = true := by decide

/-- V41, `DAD H` -/
theorem test_dad : after (cpu ⟨0x11, 0x22, 0x33, 0x44, 0x55, 0x80, 0x00⟩ 0x7777 0x00 [0x29#8] [])
    (fun t => t.regs == ⟨0x11, 0x22, 0x33, 0x44, 0x55, 0x00, 0x00⟩ && t.sp == 0x7777#16 && t.pc == 0x0101#16 &&
      agrees t.flags 0xD7 0x03 && t.ctl == Control.afterReset) = true := by decide

/-- V42, `DAD SP` -/
theorem test_dad_sp : after (cpu ⟨0x11, 0x22, 0x33, 0x44, 0x55, 0x00, 0x01⟩ 0xFFFF 0xC0 [0x39#8] [])
    (fun t => t.regs == ⟨0x11, 0x22, 0x33, 0x44, 0x55, 0x00, 0x00⟩ && t.sp == 0xFFFF#16 && t.pc == 0x0101#16 &&
      agrees t.flags 0xD7 0xC1 && t.ctl == Control.afterReset) = true := by decide

/-- V44, `DAA` -/
theorem test_daa : after (cpu ⟨0x9B, 0x22, 0x33, 0x44, 0x55, 0x66, 0x77⟩ 0x7777 0x00 [0x27#8] [])
    (fun t => t.regs == ⟨0x01, 0x22, 0x33, 0x44, 0x55, 0x66, 0x77⟩ && t.sp == 0x7777#16 && t.pc == 0x0101#16 &&
      agrees t.flags 0xD5 0x11 && t.ctl == Control.afterReset) = true := by decide

/-- V46, `DAA` -/
theorem test_daa_after_carry : after (cpu ⟨0x12, 0x22, 0x33, 0x44, 0x55, 0x66, 0x77⟩ 0x7777 0x11 [0x27#8] [])
    (fun t => t.regs == ⟨0x78, 0x22, 0x33, 0x44, 0x55, 0x66, 0x77⟩ && t.sp == 0x7777#16 && t.pc == 0x0101#16 &&
      agrees t.flags 0xD5 0x05 && t.ctl == Control.afterReset) = true := by decide

/-- V47, `ANA B` -/
theorem test_anaR : after (cpu ⟨0xF0, 0x3C, 0x33, 0x44, 0x55, 0x66, 0x77⟩ 0x7777 0x01 [0xA0#8] [])
    (fun t => t.regs == ⟨0x30, 0x3C, 0x33, 0x44, 0x55, 0x66, 0x77⟩ && t.sp == 0x7777#16 && t.pc == 0x0101#16 &&
      agrees t.flags 0xD5 0x14 && t.ctl == Control.afterReset) = true := by decide

/-- R172 -/
theorem test_anaM : after (cpu ⟨0xF0, 0x22, 0x33, 0x44, 0x55, 0x20, 0x00⟩ 0x7777 0x00 [0xA6#8] [(0x2000#16, 0x3C#8)])
    (fun t => t.regs == ⟨0x30, 0x22, 0x33, 0x44, 0x55, 0x20, 0x00⟩ && t.sp == 0x7777#16 && t.pc == 0x0101#16 &&
      agrees t.flags 0xD5 0x14 && t.ctl == Control.afterReset) = true := by decide

/-- V48, `ANI 00H` -/
theorem test_ani : after (cpu ⟨0xFF, 0x22, 0x33, 0x44, 0x55, 0x66, 0x77⟩ 0x7777 0x00 [0xE6#8, 0x00#8] [])
    (fun t => t.regs == ⟨0x00, 0x22, 0x33, 0x44, 0x55, 0x66, 0x77⟩ && t.sp == 0x7777#16 && t.pc == 0x0102#16 &&
      agrees t.flags 0xD5 0x54 && t.ctl == Control.afterReset) = true := by decide

/-- V49, `XRA A` -/
theorem test_xraR : after (cpu ⟨0x5C, 0x22, 0x33, 0x44, 0x55, 0x66, 0x77⟩ 0x7777 0xB3 [0xAF#8] [])
    (fun t => t.regs == ⟨0x00, 0x22, 0x33, 0x44, 0x55, 0x66, 0x77⟩ && t.sp == 0x7777#16 && t.pc == 0x0101#16 &&
      agrees t.flags 0xD5 0x44 && t.ctl == Control.afterReset) = true := by decide

/-- R175 -/
theorem test_xraM : after (cpu ⟨0x5C, 0x22, 0x33, 0x44, 0x55, 0x20, 0x00⟩ 0x7777 0x00 [0xAE#8] [(0x2000#16, 0x78#8)])
    (fun t => t.regs == ⟨0x24, 0x22, 0x33, 0x44, 0x55, 0x20, 0x00⟩ && t.sp == 0x7777#16 && t.pc == 0x0101#16 &&
      agrees t.flags 0xD5 0x04 && t.ctl == Control.afterReset) = true := by decide

/-- V50, `XRI 0FFH` -/
theorem test_xri : after (cpu ⟨0x0F, 0x22, 0x33, 0x44, 0x55, 0x66, 0x77⟩ 0x7777 0x00 [0xEE#8, 0xFF#8] [])
    (fun t => t.regs == ⟨0xF0, 0x22, 0x33, 0x44, 0x55, 0x66, 0x77⟩ && t.sp == 0x7777#16 && t.pc == 0x0102#16 &&
      agrees t.flags 0xD5 0x84 && t.ctl == Control.afterReset) = true := by decide

/-- R177 -/
theorem test_oraR : after (cpu ⟨0x33, 0x22, 0x0F, 0x44, 0x55, 0x66, 0x77⟩ 0x7777 0x11 [0xB1#8] [])
    (fun t => t.regs == ⟨0x3F, 0x22, 0x0F, 0x44, 0x55, 0x66, 0x77⟩ && t.sp == 0x7777#16 && t.pc == 0x0101#16 &&
      agrees t.flags 0xD5 0x04 && t.ctl == Control.afterReset) = true := by decide

/-- V51, `ORA M` -/
theorem test_oraM : after (cpu ⟨0x01, 0x22, 0x33, 0x44, 0x55, 0x20, 0x00⟩ 0x7777 0x11 [0xB6#8] [(0x2000#16, 0x80#8)])
    (fun t => t.regs == ⟨0x81, 0x22, 0x33, 0x44, 0x55, 0x20, 0x00⟩ && t.sp == 0x7777#16 && t.pc == 0x0101#16 &&
      agrees t.flags 0xD5 0x84 && t.ctl == Control.afterReset) = true := by decide

/-- V52, `ORI 00H` -/
theorem test_ori : after (cpu ⟨0x00, 0x22, 0x33, 0x44, 0x55, 0x66, 0x77⟩ 0x7777 0x00 [0xF6#8, 0x00#8] [])
    (fun t => t.regs == ⟨0x00, 0x22, 0x33, 0x44, 0x55, 0x66, 0x77⟩ && t.sp == 0x7777#16 && t.pc == 0x0102#16 &&
      agrees t.flags 0xD5 0x44 && t.ctl == Control.afterReset) = true := by decide

/-- V54, `CMP B` -/
theorem test_cmpR : after (cpu ⟨0x05, 0x0A, 0x33, 0x44, 0x55, 0x66, 0x77⟩ 0x7777 0x00 [0xB8#8] [])
    (fun t => t.regs == ⟨0x05, 0x0A, 0x33, 0x44, 0x55, 0x66, 0x77⟩ && t.sp == 0x7777#16 && t.pc == 0x0101#16 &&
      agrees t.flags 0xF7 0xA1 && t.ctl == Control.afterReset) = true := by decide

/-- V55, `CMP M` -/
theorem test_cmpM : after (cpu ⟨0x0A, 0x22, 0x33, 0x44, 0x55, 0x20, 0x00⟩ 0x7777 0xF7 [0xBE#8] [(0x2000#16, 0x05#8)])
    (fun t => t.regs == ⟨0x0A, 0x22, 0x33, 0x44, 0x55, 0x20, 0x00⟩ && t.sp == 0x7777#16 && t.pc == 0x0101#16 &&
      agrees t.flags 0xF7 0x14 && t.ctl == Control.afterReset) = true := by decide

/-- V57, `CPI 7FH` -/
theorem test_cpi : after (cpu ⟨0xFF, 0x22, 0x33, 0x44, 0x55, 0x66, 0x77⟩ 0x7777 0x00 [0xFE#8, 0x7F#8] [])
    (fun t => t.regs == ⟨0xFF, 0x22, 0x33, 0x44, 0x55, 0x66, 0x77⟩ && t.sp == 0x7777#16 && t.pc == 0x0102#16 &&
      agrees t.flags 0xF7 0xB0 && t.ctl == Control.afterReset) = true := by decide

/-- V58, `RLC` -/
theorem test_rlc : after (cpu ⟨0x81, 0x22, 0x33, 0x44, 0x55, 0x66, 0x77⟩ 0x7777 0x00 [0x07#8] [])
    (fun t => t.regs == ⟨0x03, 0x22, 0x33, 0x44, 0x55, 0x66, 0x77⟩ && t.sp == 0x7777#16 && t.pc == 0x0101#16 &&
      agrees t.flags 0xD5 0x01 && t.ctl == Control.afterReset) = true := by decide

/-- V59, `RRC` -/
theorem test_rrc : after (cpu ⟨0x01, 0x22, 0x33, 0x44, 0x55, 0x66, 0x77⟩ 0x7777 0x00 [0x0F#8] [])
    (fun t => t.regs == ⟨0x80, 0x22, 0x33, 0x44, 0x55, 0x66, 0x77⟩ && t.sp == 0x7777#16 && t.pc == 0x0101#16 &&
      agrees t.flags 0xD5 0x01 && t.ctl == Control.afterReset) = true := by decide

/-- V60, `RAL` -/
theorem test_ral : after (cpu ⟨0x80, 0x22, 0x33, 0x44, 0x55, 0x66, 0x77⟩ 0x7777 0x00 [0x17#8] [])
    (fun t => t.regs == ⟨0x00, 0x22, 0x33, 0x44, 0x55, 0x66, 0x77⟩ && t.sp == 0x7777#16 && t.pc == 0x0101#16 &&
      agrees t.flags 0xD5 0x01 && t.ctl == Control.afterReset) = true := by decide

/-- V61, `RAR` -/
theorem test_rar : after (cpu ⟨0x01, 0x22, 0x33, 0x44, 0x55, 0x66, 0x77⟩ 0x7777 0x01 [0x1F#8] [])
    (fun t => t.regs == ⟨0x80, 0x22, 0x33, 0x44, 0x55, 0x66, 0x77⟩ && t.sp == 0x7777#16 && t.pc == 0x0101#16 &&
      agrees t.flags 0xD5 0x01 && t.ctl == Control.afterReset) = true := by decide

/-- V62, `CMA` -/
theorem test_cma : after (cpu ⟨0x51, 0x22, 0x33, 0x44, 0x55, 0x66, 0x77⟩ 0x7777 0x22 [0x2F#8] [])
    (fun t => t.regs == ⟨0xAE, 0x22, 0x33, 0x44, 0x55, 0x66, 0x77⟩ && t.sp == 0x7777#16 && t.pc == 0x0101#16 &&
      agrees t.flags 0xF7 0x22 && t.ctl == Control.afterReset) = true := by decide

/-- V63, `CMC` -/
theorem test_cmc : after (cpu ⟨0x11, 0x22, 0x33, 0x44, 0x55, 0x66, 0x77⟩ 0x7777 0x01 [0x3F#8] [])
    (fun t => t.regs == ⟨0x11, 0x22, 0x33, 0x44, 0x55, 0x66, 0x77⟩ && t.sp == 0x7777#16 && t.pc == 0x0101#16 &&
      agrees t.flags 0xD5 0x00 && t.ctl == Control.afterReset) = true := by decide

/-- V64, `STC` -/
theorem test_stc : after (cpu ⟨0x11, 0x22, 0x33, 0x44, 0x55, 0x66, 0x77⟩ 0x7777 0x00 [0x37#8] [])
    (fun t => t.regs == ⟨0x11, 0x22, 0x33, 0x44, 0x55, 0x66, 0x77⟩ && t.sp == 0x7777#16 && t.pc == 0x0101#16 &&
      agrees t.flags 0xD5 0x01 && t.ctl == Control.afterReset) = true := by decide

/-- V65, `JMP 1234H` -/
theorem test_jmp : after (cpu ⟨0x11, 0x22, 0x33, 0x44, 0x55, 0x66, 0x77⟩ 0x7777 0x00 [0xC3#8, 0x34#8, 0x12#8] [])
    (fun t => t.regs == ⟨0x11, 0x22, 0x33, 0x44, 0x55, 0x66, 0x77⟩ && t.sp == 0x7777#16 && t.pc == 0x1234#16 &&
      agrees t.flags 0xF7 0x00 && t.ctl == Control.afterReset) = true := by decide

/-- R203 -/
theorem test_jnz_taken : after (cpu ⟨0x11, 0x22, 0x33, 0x44, 0x55, 0x66, 0x77⟩ 0x7777 0x00 [0xC2#8, 0x34#8, 0x12#8] [])
    (fun t => t.regs == ⟨0x11, 0x22, 0x33, 0x44, 0x55, 0x66, 0x77⟩ && t.sp == 0x7777#16 && t.pc == 0x1234#16 &&
      agrees t.flags 0xF7 0x00 && t.ctl == Control.afterReset) = true := by decide

/-- R203 -/
theorem test_jnz_not_taken : after (cpu ⟨0x11, 0x22, 0x33, 0x44, 0x55, 0x66, 0x77⟩ 0x7777 0x40 [0xC2#8, 0x34#8, 0x12#8] [])
    (fun t => t.regs == ⟨0x11, 0x22, 0x33, 0x44, 0x55, 0x66, 0x77⟩ && t.sp == 0x7777#16 && t.pc == 0x0103#16 &&
      agrees t.flags 0xF7 0x40 && t.ctl == Control.afterReset && t.bus.length == 2) = true := by decide

/-- R204 -/
theorem test_jz_taken : after (cpu ⟨0x11, 0x22, 0x33, 0x44, 0x55, 0x66, 0x77⟩ 0x7777 0x40 [0xCA#8, 0x34#8, 0x12#8] [])
    (fun t => t.regs == ⟨0x11, 0x22, 0x33, 0x44, 0x55, 0x66, 0x77⟩ && t.sp == 0x7777#16 && t.pc == 0x1234#16 &&
      agrees t.flags 0xF7 0x40 && t.ctl == Control.afterReset) = true := by decide

/-- R204 -/
theorem test_jz_not_taken : after (cpu ⟨0x11, 0x22, 0x33, 0x44, 0x55, 0x66, 0x77⟩ 0x7777 0x00 [0xCA#8, 0x34#8, 0x12#8] [])
    (fun t => t.regs == ⟨0x11, 0x22, 0x33, 0x44, 0x55, 0x66, 0x77⟩ && t.sp == 0x7777#16 && t.pc == 0x0103#16 &&
      agrees t.flags 0xF7 0x00 && t.ctl == Control.afterReset && t.bus.length == 2) = true := by decide

/-- R205 -/
theorem test_jnc_taken : after (cpu ⟨0x11, 0x22, 0x33, 0x44, 0x55, 0x66, 0x77⟩ 0x7777 0x00 [0xD2#8, 0x34#8, 0x12#8] [])
    (fun t => t.regs == ⟨0x11, 0x22, 0x33, 0x44, 0x55, 0x66, 0x77⟩ && t.sp == 0x7777#16 && t.pc == 0x1234#16 &&
      agrees t.flags 0xF7 0x00 && t.ctl == Control.afterReset) = true := by decide

/-- R205 -/
theorem test_jnc_not_taken : after (cpu ⟨0x11, 0x22, 0x33, 0x44, 0x55, 0x66, 0x77⟩ 0x7777 0x01 [0xD2#8, 0x34#8, 0x12#8] [])
    (fun t => t.regs == ⟨0x11, 0x22, 0x33, 0x44, 0x55, 0x66, 0x77⟩ && t.sp == 0x7777#16 && t.pc == 0x0103#16 &&
      agrees t.flags 0xF7 0x01 && t.ctl == Control.afterReset && t.bus.length == 2) = true := by decide

/-- R206 -/
theorem test_jc_taken : after (cpu ⟨0x11, 0x22, 0x33, 0x44, 0x55, 0x66, 0x77⟩ 0x7777 0x01 [0xDA#8, 0x34#8, 0x12#8] [])
    (fun t => t.regs == ⟨0x11, 0x22, 0x33, 0x44, 0x55, 0x66, 0x77⟩ && t.sp == 0x7777#16 && t.pc == 0x1234#16 &&
      agrees t.flags 0xF7 0x01 && t.ctl == Control.afterReset) = true := by decide

/-- R206 -/
theorem test_jc_not_taken : after (cpu ⟨0x11, 0x22, 0x33, 0x44, 0x55, 0x66, 0x77⟩ 0x7777 0x00 [0xDA#8, 0x34#8, 0x12#8] [])
    (fun t => t.regs == ⟨0x11, 0x22, 0x33, 0x44, 0x55, 0x66, 0x77⟩ && t.sp == 0x7777#16 && t.pc == 0x0103#16 &&
      agrees t.flags 0xF7 0x00 && t.ctl == Control.afterReset && t.bus.length == 2) = true := by decide

/-- R207 -/
theorem test_jpo_taken : after (cpu ⟨0x11, 0x22, 0x33, 0x44, 0x55, 0x66, 0x77⟩ 0x7777 0x00 [0xE2#8, 0x34#8, 0x12#8] [])
    (fun t => t.regs == ⟨0x11, 0x22, 0x33, 0x44, 0x55, 0x66, 0x77⟩ && t.sp == 0x7777#16 && t.pc == 0x1234#16 &&
      agrees t.flags 0xF7 0x00 && t.ctl == Control.afterReset) = true := by decide

/-- R207 -/
theorem test_jpo_not_taken : after (cpu ⟨0x11, 0x22, 0x33, 0x44, 0x55, 0x66, 0x77⟩ 0x7777 0x04 [0xE2#8, 0x34#8, 0x12#8] [])
    (fun t => t.regs == ⟨0x11, 0x22, 0x33, 0x44, 0x55, 0x66, 0x77⟩ && t.sp == 0x7777#16 && t.pc == 0x0103#16 &&
      agrees t.flags 0xF7 0x04 && t.ctl == Control.afterReset && t.bus.length == 2) = true := by decide

/-- R208 -/
theorem test_jpe_taken : after (cpu ⟨0x11, 0x22, 0x33, 0x44, 0x55, 0x66, 0x77⟩ 0x7777 0x04 [0xEA#8, 0x34#8, 0x12#8] [])
    (fun t => t.regs == ⟨0x11, 0x22, 0x33, 0x44, 0x55, 0x66, 0x77⟩ && t.sp == 0x7777#16 && t.pc == 0x1234#16 &&
      agrees t.flags 0xF7 0x04 && t.ctl == Control.afterReset) = true := by decide

/-- R208 -/
theorem test_jpe_not_taken : after (cpu ⟨0x11, 0x22, 0x33, 0x44, 0x55, 0x66, 0x77⟩ 0x7777 0x00 [0xEA#8, 0x34#8, 0x12#8] [])
    (fun t => t.regs == ⟨0x11, 0x22, 0x33, 0x44, 0x55, 0x66, 0x77⟩ && t.sp == 0x7777#16 && t.pc == 0x0103#16 &&
      agrees t.flags 0xF7 0x00 && t.ctl == Control.afterReset && t.bus.length == 2) = true := by decide

/-- R209 -/
theorem test_jp_taken : after (cpu ⟨0x11, 0x22, 0x33, 0x44, 0x55, 0x66, 0x77⟩ 0x7777 0x00 [0xF2#8, 0x34#8, 0x12#8] [])
    (fun t => t.regs == ⟨0x11, 0x22, 0x33, 0x44, 0x55, 0x66, 0x77⟩ && t.sp == 0x7777#16 && t.pc == 0x1234#16 &&
      agrees t.flags 0xF7 0x00 && t.ctl == Control.afterReset) = true := by decide

/-- R209 -/
theorem test_jp_not_taken : after (cpu ⟨0x11, 0x22, 0x33, 0x44, 0x55, 0x66, 0x77⟩ 0x7777 0x80 [0xF2#8, 0x34#8, 0x12#8] [])
    (fun t => t.regs == ⟨0x11, 0x22, 0x33, 0x44, 0x55, 0x66, 0x77⟩ && t.sp == 0x7777#16 && t.pc == 0x0103#16 &&
      agrees t.flags 0xF7 0x80 && t.ctl == Control.afterReset && t.bus.length == 2) = true := by decide

/-- R210 -/
theorem test_jm_taken : after (cpu ⟨0x11, 0x22, 0x33, 0x44, 0x55, 0x66, 0x77⟩ 0x7777 0x80 [0xFA#8, 0x34#8, 0x12#8] [])
    (fun t => t.regs == ⟨0x11, 0x22, 0x33, 0x44, 0x55, 0x66, 0x77⟩ && t.sp == 0x7777#16 && t.pc == 0x1234#16 &&
      agrees t.flags 0xF7 0x80 && t.ctl == Control.afterReset) = true := by decide

/-- R210 -/
theorem test_jm_not_taken : after (cpu ⟨0x11, 0x22, 0x33, 0x44, 0x55, 0x66, 0x77⟩ 0x7777 0x00 [0xFA#8, 0x34#8, 0x12#8] [])
    (fun t => t.regs == ⟨0x11, 0x22, 0x33, 0x44, 0x55, 0x66, 0x77⟩ && t.sp == 0x7777#16 && t.pc == 0x0103#16 &&
      agrees t.flags 0xF7 0x00 && t.ctl == Control.afterReset && t.bus.length == 2) = true := by decide

/-- V75, `CALL 2000H` -/
theorem test_call : after (cpu ⟨0x11, 0x22, 0x33, 0x44, 0x55, 0x66, 0x77⟩ 0x4000 0x00 [0xCD#8, 0x00#8, 0x20#8] [])
    (fun t => t.regs == ⟨0x11, 0x22, 0x33, 0x44, 0x55, 0x66, 0x77⟩ && t.sp == 0x3FFE#16 && t.pc == 0x2000#16 &&
      agrees t.flags 0xF7 0x00 && t.peek 0x3FFE == 0x03#8 && t.peek 0x3FFF == 0x01#8 &&
      t.ctl == Control.afterReset) = true := by decide

/-- V79, `CALL 0010H` -/
theorem test_call_wraps : after (cpu ⟨0x11, 0x22, 0x33, 0x44, 0x55, 0x66, 0x77⟩ 0x0001 0x00 [0xCD#8, 0x10#8, 0x00#8] [])
    (fun t => t.regs == ⟨0x11, 0x22, 0x33, 0x44, 0x55, 0x66, 0x77⟩ && t.sp == 0xFFFF#16 && t.pc == 0x0010#16 &&
      agrees t.flags 0xF7 0x00 && t.peek 0x0000 == 0x01#8 && t.peek 0xFFFF == 0x03#8 &&
      t.ctl == Control.afterReset) = true := by decide

/-- R213 -/
theorem test_cnz_taken : after (cpu ⟨0x11, 0x22, 0x33, 0x44, 0x55, 0x66, 0x77⟩ 0x4000 0x00 [0xC4#8, 0x00#8, 0x30#8] [])
    (fun t => t.regs == ⟨0x11, 0x22, 0x33, 0x44, 0x55, 0x66, 0x77⟩ && t.sp == 0x3FFE#16 && t.pc == 0x3000#16 &&
      agrees t.flags 0xF7 0x00 && t.peek 0x3FFE == 0x03#8 && t.peek 0x3FFF == 0x01#8 &&
      t.ctl == Control.afterReset) = true := by decide

/-- R213 -/
theorem test_cnz_not_taken : after (cpu ⟨0x11, 0x22, 0x33, 0x44, 0x55, 0x66, 0x77⟩ 0x4000 0x40 [0xC4#8, 0x00#8, 0x30#8] [])
    (fun t => t.regs == ⟨0x11, 0x22, 0x33, 0x44, 0x55, 0x66, 0x77⟩ && t.sp == 0x4000#16 && t.pc == 0x0103#16 &&
      agrees t.flags 0xF7 0x40 && t.ctl == Control.afterReset && t.bus.length == 2) = true := by decide

/-- R214 -/
theorem test_cz_taken : after (cpu ⟨0x11, 0x22, 0x33, 0x44, 0x55, 0x66, 0x77⟩ 0x4000 0x40 [0xCC#8, 0x00#8, 0x30#8] [])
    (fun t => t.regs == ⟨0x11, 0x22, 0x33, 0x44, 0x55, 0x66, 0x77⟩ && t.sp == 0x3FFE#16 && t.pc == 0x3000#16 &&
      agrees t.flags 0xF7 0x40 && t.peek 0x3FFE == 0x03#8 && t.peek 0x3FFF == 0x01#8 &&
      t.ctl == Control.afterReset) = true := by decide

/-- R214 -/
theorem test_cz_not_taken : after (cpu ⟨0x11, 0x22, 0x33, 0x44, 0x55, 0x66, 0x77⟩ 0x4000 0x00 [0xCC#8, 0x00#8, 0x30#8] [])
    (fun t => t.regs == ⟨0x11, 0x22, 0x33, 0x44, 0x55, 0x66, 0x77⟩ && t.sp == 0x4000#16 && t.pc == 0x0103#16 &&
      agrees t.flags 0xF7 0x00 && t.ctl == Control.afterReset && t.bus.length == 2) = true := by decide

/-- R215 -/
theorem test_cnc_taken : after (cpu ⟨0x11, 0x22, 0x33, 0x44, 0x55, 0x66, 0x77⟩ 0x4000 0x00 [0xD4#8, 0x00#8, 0x30#8] [])
    (fun t => t.regs == ⟨0x11, 0x22, 0x33, 0x44, 0x55, 0x66, 0x77⟩ && t.sp == 0x3FFE#16 && t.pc == 0x3000#16 &&
      agrees t.flags 0xF7 0x00 && t.peek 0x3FFE == 0x03#8 && t.peek 0x3FFF == 0x01#8 &&
      t.ctl == Control.afterReset) = true := by decide

/-- R215 -/
theorem test_cnc_not_taken : after (cpu ⟨0x11, 0x22, 0x33, 0x44, 0x55, 0x66, 0x77⟩ 0x4000 0x01 [0xD4#8, 0x00#8, 0x30#8] [])
    (fun t => t.regs == ⟨0x11, 0x22, 0x33, 0x44, 0x55, 0x66, 0x77⟩ && t.sp == 0x4000#16 && t.pc == 0x0103#16 &&
      agrees t.flags 0xF7 0x01 && t.ctl == Control.afterReset && t.bus.length == 2) = true := by decide

/-- R216 -/
theorem test_cc_taken : after (cpu ⟨0x11, 0x22, 0x33, 0x44, 0x55, 0x66, 0x77⟩ 0x4000 0x01 [0xDC#8, 0x00#8, 0x30#8] [])
    (fun t => t.regs == ⟨0x11, 0x22, 0x33, 0x44, 0x55, 0x66, 0x77⟩ && t.sp == 0x3FFE#16 && t.pc == 0x3000#16 &&
      agrees t.flags 0xF7 0x01 && t.peek 0x3FFE == 0x03#8 && t.peek 0x3FFF == 0x01#8 &&
      t.ctl == Control.afterReset) = true := by decide

/-- R216 -/
theorem test_cc_not_taken : after (cpu ⟨0x11, 0x22, 0x33, 0x44, 0x55, 0x66, 0x77⟩ 0x4000 0x00 [0xDC#8, 0x00#8, 0x30#8] [])
    (fun t => t.regs == ⟨0x11, 0x22, 0x33, 0x44, 0x55, 0x66, 0x77⟩ && t.sp == 0x4000#16 && t.pc == 0x0103#16 &&
      agrees t.flags 0xF7 0x00 && t.ctl == Control.afterReset && t.bus.length == 2) = true := by decide

/-- R217 -/
theorem test_cpo_taken : after (cpu ⟨0x11, 0x22, 0x33, 0x44, 0x55, 0x66, 0x77⟩ 0x4000 0x00 [0xE4#8, 0x00#8, 0x30#8] [])
    (fun t => t.regs == ⟨0x11, 0x22, 0x33, 0x44, 0x55, 0x66, 0x77⟩ && t.sp == 0x3FFE#16 && t.pc == 0x3000#16 &&
      agrees t.flags 0xF7 0x00 && t.peek 0x3FFE == 0x03#8 && t.peek 0x3FFF == 0x01#8 &&
      t.ctl == Control.afterReset) = true := by decide

/-- R217 -/
theorem test_cpo_not_taken : after (cpu ⟨0x11, 0x22, 0x33, 0x44, 0x55, 0x66, 0x77⟩ 0x4000 0x04 [0xE4#8, 0x00#8, 0x30#8] [])
    (fun t => t.regs == ⟨0x11, 0x22, 0x33, 0x44, 0x55, 0x66, 0x77⟩ && t.sp == 0x4000#16 && t.pc == 0x0103#16 &&
      agrees t.flags 0xF7 0x04 && t.ctl == Control.afterReset && t.bus.length == 2) = true := by decide

/-- R218 -/
theorem test_cpe_taken : after (cpu ⟨0x11, 0x22, 0x33, 0x44, 0x55, 0x66, 0x77⟩ 0x4000 0x04 [0xEC#8, 0x00#8, 0x30#8] [])
    (fun t => t.regs == ⟨0x11, 0x22, 0x33, 0x44, 0x55, 0x66, 0x77⟩ && t.sp == 0x3FFE#16 && t.pc == 0x3000#16 &&
      agrees t.flags 0xF7 0x04 && t.peek 0x3FFE == 0x03#8 && t.peek 0x3FFF == 0x01#8 &&
      t.ctl == Control.afterReset) = true := by decide

/-- R218 -/
theorem test_cpe_not_taken : after (cpu ⟨0x11, 0x22, 0x33, 0x44, 0x55, 0x66, 0x77⟩ 0x4000 0x00 [0xEC#8, 0x00#8, 0x30#8] [])
    (fun t => t.regs == ⟨0x11, 0x22, 0x33, 0x44, 0x55, 0x66, 0x77⟩ && t.sp == 0x4000#16 && t.pc == 0x0103#16 &&
      agrees t.flags 0xF7 0x00 && t.ctl == Control.afterReset && t.bus.length == 2) = true := by decide

/-- R219 -/
theorem test_cp_taken : after (cpu ⟨0x11, 0x22, 0x33, 0x44, 0x55, 0x66, 0x77⟩ 0x4000 0x00 [0xF4#8, 0x00#8, 0x30#8] [])
    (fun t => t.regs == ⟨0x11, 0x22, 0x33, 0x44, 0x55, 0x66, 0x77⟩ && t.sp == 0x3FFE#16 && t.pc == 0x3000#16 &&
      agrees t.flags 0xF7 0x00 && t.peek 0x3FFE == 0x03#8 && t.peek 0x3FFF == 0x01#8 &&
      t.ctl == Control.afterReset) = true := by decide

/-- R219 -/
theorem test_cp_not_taken : after (cpu ⟨0x11, 0x22, 0x33, 0x44, 0x55, 0x66, 0x77⟩ 0x4000 0x80 [0xF4#8, 0x00#8, 0x30#8] [])
    (fun t => t.regs == ⟨0x11, 0x22, 0x33, 0x44, 0x55, 0x66, 0x77⟩ && t.sp == 0x4000#16 && t.pc == 0x0103#16 &&
      agrees t.flags 0xF7 0x80 && t.ctl == Control.afterReset && t.bus.length == 2) = true := by decide

/-- R220 -/
theorem test_cm_taken : after (cpu ⟨0x11, 0x22, 0x33, 0x44, 0x55, 0x66, 0x77⟩ 0x4000 0x80 [0xFC#8, 0x00#8, 0x30#8] [])
    (fun t => t.regs == ⟨0x11, 0x22, 0x33, 0x44, 0x55, 0x66, 0x77⟩ && t.sp == 0x3FFE#16 && t.pc == 0x3000#16 &&
      agrees t.flags 0xF7 0x80 && t.peek 0x3FFE == 0x03#8 && t.peek 0x3FFF == 0x01#8 &&
      t.ctl == Control.afterReset) = true := by decide

/-- R220 -/
theorem test_cm_not_taken : after (cpu ⟨0x11, 0x22, 0x33, 0x44, 0x55, 0x66, 0x77⟩ 0x4000 0x00 [0xFC#8, 0x00#8, 0x30#8] [])
    (fun t => t.regs == ⟨0x11, 0x22, 0x33, 0x44, 0x55, 0x66, 0x77⟩ && t.sp == 0x4000#16 && t.pc == 0x0103#16 &&
      agrees t.flags 0xF7 0x00 && t.ctl == Control.afterReset && t.bus.length == 2) = true := by decide

/-- V80, `RET` -/
theorem test_ret :
    after (cpu ⟨0x11, 0x22, 0x33, 0x44, 0x55, 0x66, 0x77⟩ 0x3FFE 0x00 [0xC9#8] [(0x3FFE#16, 0x03#8), (0x3FFF#16, 0x01#8)])
    (fun t => t.regs == ⟨0x11, 0x22, 0x33, 0x44, 0x55, 0x66, 0x77⟩ && t.sp == 0x4000#16 && t.pc == 0x0103#16 &&
      agrees t.flags 0xF7 0x00 && t.ctl == Control.afterReset) = true := by decide

/-- R223 -/
theorem test_rnz_taken :
    after (cpu ⟨0x11, 0x22, 0x33, 0x44, 0x55, 0x66, 0x77⟩ 0x3FFE 0x00 [0xC0#8] [(0x3FFE#16, 0x03#8), (0x3FFF#16, 0x20#8)])
    (fun t => t.regs == ⟨0x11, 0x22, 0x33, 0x44, 0x55, 0x66, 0x77⟩ && t.sp == 0x4000#16 && t.pc == 0x2003#16 &&
      agrees t.flags 0xF7 0x00 && t.ctl == Control.afterReset) = true := by decide

/-- R223 -/
theorem test_rnz_not_taken :
    after (cpu ⟨0x11, 0x22, 0x33, 0x44, 0x55, 0x66, 0x77⟩ 0x3FFE 0x40 [0xC0#8] [(0x3FFE#16, 0x03#8), (0x3FFF#16, 0x20#8)])
    (fun t => t.regs == ⟨0x11, 0x22, 0x33, 0x44, 0x55, 0x66, 0x77⟩ && t.sp == 0x3FFE#16 && t.pc == 0x0101#16 &&
      agrees t.flags 0xF7 0x40 && t.ctl == Control.afterReset && t.bus.length == 1) = true := by decide

/-- R224 -/
theorem test_rz_taken :
    after (cpu ⟨0x11, 0x22, 0x33, 0x44, 0x55, 0x66, 0x77⟩ 0x3FFE 0x40 [0xC8#8] [(0x3FFE#16, 0x03#8), (0x3FFF#16, 0x20#8)])
    (fun t => t.regs == ⟨0x11, 0x22, 0x33, 0x44, 0x55, 0x66, 0x77⟩ && t.sp == 0x4000#16 && t.pc == 0x2003#16 &&
      agrees t.flags 0xF7 0x40 && t.ctl == Control.afterReset) = true := by decide

/-- R224 -/
theorem test_rz_not_taken :
    after (cpu ⟨0x11, 0x22, 0x33, 0x44, 0x55, 0x66, 0x77⟩ 0x3FFE 0x00 [0xC8#8] [(0x3FFE#16, 0x03#8), (0x3FFF#16, 0x20#8)])
    (fun t => t.regs == ⟨0x11, 0x22, 0x33, 0x44, 0x55, 0x66, 0x77⟩ && t.sp == 0x3FFE#16 && t.pc == 0x0101#16 &&
      agrees t.flags 0xF7 0x00 && t.ctl == Control.afterReset && t.bus.length == 1) = true := by decide

/-- R225 -/
theorem test_rnc_taken :
    after (cpu ⟨0x11, 0x22, 0x33, 0x44, 0x55, 0x66, 0x77⟩ 0x3FFE 0x00 [0xD0#8] [(0x3FFE#16, 0x03#8), (0x3FFF#16, 0x20#8)])
    (fun t => t.regs == ⟨0x11, 0x22, 0x33, 0x44, 0x55, 0x66, 0x77⟩ && t.sp == 0x4000#16 && t.pc == 0x2003#16 &&
      agrees t.flags 0xF7 0x00 && t.ctl == Control.afterReset) = true := by decide

/-- R225 -/
theorem test_rnc_not_taken :
    after (cpu ⟨0x11, 0x22, 0x33, 0x44, 0x55, 0x66, 0x77⟩ 0x3FFE 0x01 [0xD0#8] [(0x3FFE#16, 0x03#8), (0x3FFF#16, 0x20#8)])
    (fun t => t.regs == ⟨0x11, 0x22, 0x33, 0x44, 0x55, 0x66, 0x77⟩ && t.sp == 0x3FFE#16 && t.pc == 0x0101#16 &&
      agrees t.flags 0xF7 0x01 && t.ctl == Control.afterReset && t.bus.length == 1) = true := by decide

/-- R226 -/
theorem test_rc_taken :
    after (cpu ⟨0x11, 0x22, 0x33, 0x44, 0x55, 0x66, 0x77⟩ 0x3FFE 0x01 [0xD8#8] [(0x3FFE#16, 0x03#8), (0x3FFF#16, 0x20#8)])
    (fun t => t.regs == ⟨0x11, 0x22, 0x33, 0x44, 0x55, 0x66, 0x77⟩ && t.sp == 0x4000#16 && t.pc == 0x2003#16 &&
      agrees t.flags 0xF7 0x01 && t.ctl == Control.afterReset) = true := by decide

/-- R226 -/
theorem test_rc_not_taken :
    after (cpu ⟨0x11, 0x22, 0x33, 0x44, 0x55, 0x66, 0x77⟩ 0x3FFE 0x00 [0xD8#8] [(0x3FFE#16, 0x03#8), (0x3FFF#16, 0x20#8)])
    (fun t => t.regs == ⟨0x11, 0x22, 0x33, 0x44, 0x55, 0x66, 0x77⟩ && t.sp == 0x3FFE#16 && t.pc == 0x0101#16 &&
      agrees t.flags 0xF7 0x00 && t.ctl == Control.afterReset && t.bus.length == 1) = true := by decide

/-- R227 -/
theorem test_rpo_taken :
    after (cpu ⟨0x11, 0x22, 0x33, 0x44, 0x55, 0x66, 0x77⟩ 0x3FFE 0x00 [0xE0#8] [(0x3FFE#16, 0x03#8), (0x3FFF#16, 0x20#8)])
    (fun t => t.regs == ⟨0x11, 0x22, 0x33, 0x44, 0x55, 0x66, 0x77⟩ && t.sp == 0x4000#16 && t.pc == 0x2003#16 &&
      agrees t.flags 0xF7 0x00 && t.ctl == Control.afterReset) = true := by decide

/-- R227 -/
theorem test_rpo_not_taken :
    after (cpu ⟨0x11, 0x22, 0x33, 0x44, 0x55, 0x66, 0x77⟩ 0x3FFE 0x04 [0xE0#8] [(0x3FFE#16, 0x03#8), (0x3FFF#16, 0x20#8)])
    (fun t => t.regs == ⟨0x11, 0x22, 0x33, 0x44, 0x55, 0x66, 0x77⟩ && t.sp == 0x3FFE#16 && t.pc == 0x0101#16 &&
      agrees t.flags 0xF7 0x04 && t.ctl == Control.afterReset && t.bus.length == 1) = true := by decide

/-- R228 -/
theorem test_rpe_taken :
    after (cpu ⟨0x11, 0x22, 0x33, 0x44, 0x55, 0x66, 0x77⟩ 0x3FFE 0x04 [0xE8#8] [(0x3FFE#16, 0x03#8), (0x3FFF#16, 0x20#8)])
    (fun t => t.regs == ⟨0x11, 0x22, 0x33, 0x44, 0x55, 0x66, 0x77⟩ && t.sp == 0x4000#16 && t.pc == 0x2003#16 &&
      agrees t.flags 0xF7 0x04 && t.ctl == Control.afterReset) = true := by decide

/-- R228 -/
theorem test_rpe_not_taken :
    after (cpu ⟨0x11, 0x22, 0x33, 0x44, 0x55, 0x66, 0x77⟩ 0x3FFE 0x00 [0xE8#8] [(0x3FFE#16, 0x03#8), (0x3FFF#16, 0x20#8)])
    (fun t => t.regs == ⟨0x11, 0x22, 0x33, 0x44, 0x55, 0x66, 0x77⟩ && t.sp == 0x3FFE#16 && t.pc == 0x0101#16 &&
      agrees t.flags 0xF7 0x00 && t.ctl == Control.afterReset && t.bus.length == 1) = true := by decide

/-- R229 -/
theorem test_rp_taken :
    after (cpu ⟨0x11, 0x22, 0x33, 0x44, 0x55, 0x66, 0x77⟩ 0x3FFE 0x00 [0xF0#8] [(0x3FFE#16, 0x03#8), (0x3FFF#16, 0x20#8)])
    (fun t => t.regs == ⟨0x11, 0x22, 0x33, 0x44, 0x55, 0x66, 0x77⟩ && t.sp == 0x4000#16 && t.pc == 0x2003#16 &&
      agrees t.flags 0xF7 0x00 && t.ctl == Control.afterReset) = true := by decide

/-- R229 -/
theorem test_rp_not_taken :
    after (cpu ⟨0x11, 0x22, 0x33, 0x44, 0x55, 0x66, 0x77⟩ 0x3FFE 0x80 [0xF0#8] [(0x3FFE#16, 0x03#8), (0x3FFF#16, 0x20#8)])
    (fun t => t.regs == ⟨0x11, 0x22, 0x33, 0x44, 0x55, 0x66, 0x77⟩ && t.sp == 0x3FFE#16 && t.pc == 0x0101#16 &&
      agrees t.flags 0xF7 0x80 && t.ctl == Control.afterReset && t.bus.length == 1) = true := by decide

/-- R230 -/
theorem test_rm_taken :
    after (cpu ⟨0x11, 0x22, 0x33, 0x44, 0x55, 0x66, 0x77⟩ 0x3FFE 0x80 [0xF8#8] [(0x3FFE#16, 0x03#8), (0x3FFF#16, 0x20#8)])
    (fun t => t.regs == ⟨0x11, 0x22, 0x33, 0x44, 0x55, 0x66, 0x77⟩ && t.sp == 0x4000#16 && t.pc == 0x2003#16 &&
      agrees t.flags 0xF7 0x80 && t.ctl == Control.afterReset) = true := by decide

/-- R230 -/
theorem test_rm_not_taken :
    after (cpu ⟨0x11, 0x22, 0x33, 0x44, 0x55, 0x66, 0x77⟩ 0x3FFE 0x00 [0xF8#8] [(0x3FFE#16, 0x03#8), (0x3FFF#16, 0x20#8)])
    (fun t => t.regs == ⟨0x11, 0x22, 0x33, 0x44, 0x55, 0x66, 0x77⟩ && t.sp == 0x3FFE#16 && t.pc == 0x0101#16 &&
      agrees t.flags 0xF7 0x00 && t.ctl == Control.afterReset && t.bus.length == 1) = true := by decide

/-- V84, `RST 7` -/
theorem test_rst : after (cpu ⟨0x11, 0x22, 0x33, 0x44, 0x55, 0x66, 0x77⟩ 0x4000 0x00 [0xFF#8] [])
    (fun t => t.regs == ⟨0x11, 0x22, 0x33, 0x44, 0x55, 0x66, 0x77⟩ && t.sp == 0x3FFE#16 && t.pc == 0x0038#16 &&
      agrees t.flags 0xF7 0x00 && t.peek 0x3FFE == 0x01#8 && t.peek 0x3FFF == 0x01#8 &&
      t.ctl == Control.afterReset) = true := by decide

/-- V86, `RST 3` -/
theorem test_rst_three : after (cpu ⟨0x11, 0x22, 0x33, 0x44, 0x55, 0x66, 0x77⟩ 0x4000 0x00 [0xDF#8] [])
    (fun t => t.regs == ⟨0x11, 0x22, 0x33, 0x44, 0x55, 0x66, 0x77⟩ && t.sp == 0x3FFE#16 && t.pc == 0x0018#16 &&
      agrees t.flags 0xF7 0x00 && t.peek 0x3FFE == 0x01#8 && t.peek 0x3FFF == 0x01#8 &&
      t.ctl == Control.afterReset) = true := by decide

/-- V87, `PCHL` -/
theorem test_pchl : after (cpu ⟨0x11, 0x22, 0x33, 0x44, 0x55, 0xAB, 0xCD⟩ 0x7777 0x00 [0xE9#8] [])
    (fun t => t.regs == ⟨0x11, 0x22, 0x33, 0x44, 0x55, 0xAB, 0xCD⟩ && t.sp == 0x7777#16 && t.pc == 0xABCD#16 &&
      agrees t.flags 0xF7 0x00 && t.ctl == Control.afterReset) = true := by decide

/-- V88, `PUSH B` -/
theorem test_pushRp : after (cpu ⟨0x11, 0x12, 0x34, 0x44, 0x55, 0x66, 0x77⟩ 0x4000 0x00 [0xC5#8] [])
    (fun t => t.regs == ⟨0x11, 0x12, 0x34, 0x44, 0x55, 0x66, 0x77⟩ && t.sp == 0x3FFE#16 && t.pc == 0x0101#16 &&
      agrees t.flags 0xF7 0x00 && t.peek 0x3FFE == 0x34#8 && t.peek 0x3FFF == 0x12#8 &&
      t.ctl == Control.afterReset) = true := by decide

/-- V89, `PUSH PSW` -/
theorem test_pushPsw : after (cpu ⟨0x12, 0x22, 0x33, 0x44, 0x55, 0x66, 0x77⟩ 0x3000 0xA6 [0xF5#8] [])
    (fun t => t.regs == ⟨0x12, 0x22, 0x33, 0x44, 0x55, 0x66, 0x77⟩ && t.sp == 0x2FFE#16 && t.pc == 0x0101#16 &&
      agrees t.flags 0xF7 0xA6 && t.peek 0x2FFE == 0xA6#8 && t.peek 0x2FFF == 0x12#8 &&
      t.ctl == Control.afterReset) = true := by decide

/-- V90, `PUSH PSW` -/
theorem test_pushPsw_all_flags : after (cpu ⟨0x00, 0x22, 0x33, 0x44, 0x55, 0x66, 0x77⟩ 0x3000 0xF7 [0xF5#8] [])
    (fun t => t.regs == ⟨0x00, 0x22, 0x33, 0x44, 0x55, 0x66, 0x77⟩ && t.sp == 0x2FFE#16 && t.pc == 0x0101#16 &&
      agrees t.flags 0xF7 0xF7 && t.peek 0x2FFE == 0xF7#8 && t.peek 0x2FFF == 0x00#8 &&
      t.ctl == Control.afterReset) = true := by decide

/-- V95, `POP D` -/
theorem test_popRp :
    after (cpu ⟨0x11, 0x22, 0x33, 0x00, 0x00, 0x66, 0x77⟩ 0xFFFF 0x00 [0xD1#8] [(0x0000#16, 0x11#8), (0xFFFF#16, 0x22#8)])
    (fun t => t.regs == ⟨0x11, 0x22, 0x33, 0x11, 0x22, 0x66, 0x77⟩ && t.sp == 0x0001#16 && t.pc == 0x0101#16 &&
      agrees t.flags 0xF7 0x00 && t.ctl == Control.afterReset) = true := by decide

/-- V94, `POP PSW` -/
theorem test_popPsw :
    after (cpu ⟨0xFF, 0x22, 0x33, 0x44, 0x55, 0x66, 0x77⟩ 0x2FFE 0x00 [0xF1#8] [(0x2FFE#16, 0x22#8), (0x2FFF#16, 0x00#8)])
    (fun t => t.regs == ⟨0x00, 0x22, 0x33, 0x44, 0x55, 0x66, 0x77⟩ && t.sp == 0x3000#16 && t.pc == 0x0101#16 &&
      agrees t.flags 0xF7 0x22 && t.ctl == Control.afterReset) = true := by decide

/-- V93, `POP PSW` -/
theorem test_popPsw_ignores_bit_three :
    after (cpu ⟨0xFF, 0x22, 0x33, 0x44, 0x55, 0x66, 0x77⟩ 0x2FFE 0xF7 [0xF1#8] [(0x2FFE#16, 0x08#8), (0x2FFF#16, 0x00#8)])
    (fun t => t.regs == ⟨0x00, 0x22, 0x33, 0x44, 0x55, 0x66, 0x77⟩ && t.sp == 0x3000#16 && t.pc == 0x0101#16 &&
      agrees t.flags 0xF7 0x00 && t.ctl == Control.afterReset) = true := by decide

/-- V96, `XTHL` -/
theorem test_xthl :
    after (cpu ⟨0x11, 0x22, 0x33, 0x44, 0x55, 0x0B, 0x3C⟩ 0x10AD 0x00 [0xE3#8] [(0x10AD#16, 0xF0#8), (0x10AE#16, 0x0D#8)])
    (fun t => t.regs == ⟨0x11, 0x22, 0x33, 0x44, 0x55, 0x0D, 0xF0⟩ && t.sp == 0x10AD#16 && t.pc == 0x0101#16 &&
      agrees t.flags 0xF7 0x00 && t.peek 0x10AD == 0x3C#8 && t.peek 0x10AE == 0x0B#8 &&
      t.ctl == Control.afterReset) = true := by decide

/-- V97, `SPHL` -/
theorem test_sphl : after (cpu ⟨0x11, 0x22, 0x33, 0x44, 0x55, 0x50, 0x6C⟩ 0x0000 0x00 [0xF9#8] [])
    (fun t => t.regs == ⟨0x11, 0x22, 0x33, 0x44, 0x55, 0x50, 0x6C⟩ && t.sp == 0x506C#16 && t.pc == 0x0101#16 &&
      agrees t.flags 0xF7 0x00 && t.ctl == Control.afterReset) = true := by decide

/-- V98, `IN 10H` -/
theorem test_inp :
    after ((cpu ⟨0x00, 0x22, 0x33, 0x44, 0x55, 0x66, 0x77⟩ 0x7777 0xF7 [0xDB#8, 0x10#8] []).setEnv
      { Sample.idle with ports := [(0x10#8, 0xA5#8)] })
    (fun t => t.regs == ⟨0xA5, 0x22, 0x33, 0x44, 0x55, 0x66, 0x77⟩ && t.sp == 0x7777#16 && t.pc == 0x0102#16 &&
      agrees t.flags 0xF7 0xF7 && t.ctl == Control.afterReset) = true := by decide

/-- V99, `OUT 0FFH` -/
theorem test_out : after (cpu ⟨0x3C, 0x22, 0x33, 0x44, 0x55, 0x66, 0x77⟩ 0x7777 0x00 [0xD3#8, 0xFF#8] [])
    (fun t => t.regs == ⟨0x3C, 0x22, 0x33, 0x44, 0x55, 0x66, 0x77⟩ && t.sp == 0x7777#16 && t.pc == 0x0102#16 &&
      agrees t.flags 0xF7 0x00 && t.ctl == Control.afterReset &&
      t.bus.head? == some (.ioWrite 0xFF 0x3C)) = true := by decide

/-- V100, `EI` -/
theorem test_ei :
    after ((cpu ⟨0x11, 0x22, 0x33, 0x44, 0x55, 0x66, 0x77⟩ 0x7777 0x00 [0xFB#8] []).setCtl
      { Control.afterReset with inte := false })
    (fun t => t.regs == ⟨0x11, 0x22, 0x33, 0x44, 0x55, 0x66, 0x77⟩ && t.sp == 0x7777#16 && t.pc == 0x0101#16 &&
      agrees t.flags 0xF7 0x00 &&
      t.ctl == { Control.afterReset with inte := true, eiPend := true }) = true := by decide

/-- V101, `DI` -/
theorem test_di :
    after ((cpu ⟨0x11, 0x22, 0x33, 0x44, 0x55, 0x66, 0x77⟩ 0x7777 0x00 [0xF3#8] []).setCtl
      { Control.afterReset with inte := true })
    (fun t => t.regs == ⟨0x11, 0x22, 0x33, 0x44, 0x55, 0x66, 0x77⟩ && t.sp == 0x7777#16 && t.pc == 0x0101#16 &&
      agrees t.flags 0xF7 0x00 && t.ctl == { Control.afterReset with inte := false }) = true := by decide

/-- V102, `HLT` -/
theorem test_hlt : after (cpu ⟨0x11, 0x22, 0x33, 0x44, 0x55, 0x66, 0x77⟩ 0x7777 0x00 [0x76#8] [])
    (fun t => t.regs == ⟨0x11, 0x22, 0x33, 0x44, 0x55, 0x66, 0x77⟩ && t.sp == 0x7777#16 && t.pc == 0x0101#16 &&
      agrees t.flags 0xF7 0x00 && t.ctl == { Control.afterReset with halted := true }) = true := by decide

/-- V103, `NOP` -/
theorem test_nop : after (cpu ⟨0x11, 0x22, 0x33, 0x44, 0x55, 0x66, 0x77⟩ 0x7777 0xF7 [0x00#8] [])
    (fun t => t.regs == ⟨0x11, 0x22, 0x33, 0x44, 0x55, 0x66, 0x77⟩ && t.sp == 0x7777#16 && t.pc == 0x0101#16 &&
      agrees t.flags 0xF7 0xF7 && t.ctl == Control.afterReset) = true := by decide

/-- V104, `RIM` -/
theorem test_rim :
    after (((cpu ⟨0x00, 0x22, 0x33, 0x44, 0x55, 0x66, 0x77⟩ 0x7777 0x00 [0x20#8] []).setCtl
      { Control.afterReset with inte := true, m75 := true, m65 := false, m55 := true, r75 := true }).setEnv
      { Sample.idle with sid := true, rst55 := true })
    (fun t => t.regs == ⟨0xDD, 0x22, 0x33, 0x44, 0x55, 0x66, 0x77⟩ && t.sp == 0x7777#16 && t.pc == 0x0101#16 &&
      agrees t.flags 0xF7 0x00 &&
      t.ctl == { Control.afterReset with inte := true, m75 := true, m65 := false, m55 := true, r75 := true }) = true := by decide

/-- V105, `RIM` -/
theorem test_rim_after_reset :
    after ((cpu ⟨0xFF, 0x22, 0x33, 0x44, 0x55, 0x66, 0x77⟩ 0x7777 0x00 [0x20#8] []).setCtl
      { Control.afterReset with inte := false })
    (fun t => t.regs == ⟨0x07, 0x22, 0x33, 0x44, 0x55, 0x66, 0x77⟩ && t.sp == 0x7777#16 && t.pc == 0x0101#16 &&
      agrees t.flags 0xF7 0x00 && t.ctl == { Control.afterReset with inte := false }) = true := by decide

/-- V110, `SIM` -/
theorem test_sim_latch :
    after ((cpu ⟨0x1B, 0x22, 0x33, 0x44, 0x55, 0x66, 0x77⟩ 0x7777 0x00 [0x30#8] []).setCtl
      { Control.afterReset with r75 := true })
    (fun t => t.regs == ⟨0x1B, 0x22, 0x33, 0x44, 0x55, 0x66, 0x77⟩ && t.sp == 0x7777#16 && t.pc == 0x0101#16 &&
      agrees t.flags 0xF7 0x00 && t.ctl == { Control.afterReset with r75 := false, m75 := false }) = true := by decide

/-- V111, `SIM` -/
theorem test_sim_disabled :
    after ((cpu ⟨0x20, 0x22, 0x33, 0x44, 0x55, 0x66, 0x77⟩ 0x7777 0x00 [0x30#8] []).setCtl
      { Control.afterReset with m75 := false, m65 := true, m55 := false, r75 := true, sod := true })
    (fun t => t.regs == ⟨0x20, 0x22, 0x33, 0x44, 0x55, 0x66, 0x77⟩ && t.sp == 0x7777#16 && t.pc == 0x0101#16 &&
      agrees t.flags 0xF7 0x00 &&
      t.ctl == { Control.afterReset with m75 := false, m65 := true, m55 := false, r75 := true, sod := true }) = true := by decide

/-- V112, `ARHL` -/
theorem test_arhl : after (cpu ⟨0x11, 0x22, 0x33, 0x44, 0x55, 0x80, 0x03⟩ 0x7777 0x00 [0x10#8] [])
    (fun t => t.regs == ⟨0x11, 0x22, 0x33, 0x44, 0x55, 0xC0, 0x01⟩ && t.sp == 0x7777#16 && t.pc == 0x0101#16 &&
      agrees t.flags 0xF7 0x01 && t.ctl == Control.afterReset) = true := by decide

/-- V115, `ARHL` -/
theorem test_arhl_keeps_z : after (cpu ⟨0x11, 0x22, 0x33, 0x44, 0x55, 0x01, 0x00⟩ 0x7777 0xF7 [0x10#8] [])
    (fun t => t.regs == ⟨0x11, 0x22, 0x33, 0x44, 0x55, 0x00, 0x80⟩ && t.sp == 0x7777#16 && t.pc == 0x0101#16 &&
      agrees t.flags 0xF7 0xF6 && t.ctl == Control.afterReset) = true := by decide

/-- V119, `DSUB` -/
theorem test_dsub_overflows : after (cpu ⟨0x11, 0x00, 0x01, 0x44, 0x55, 0x80, 0x00⟩ 0x7777 0x00 [0x08#8] [])
    (fun t => t.regs == ⟨0x11, 0x00, 0x01, 0x44, 0x55, 0x7F, 0xFF⟩ && t.sp == 0x7777#16 && t.pc == 0x0101#16 &&
      agrees t.flags 0xE3 0x22 && t.ctl == Control.afterReset) = true := by decide

/-- V121, `DSUB` -/
theorem test_dsub_word_zero : after (cpu ⟨0x11, 0x00, 0x01, 0x44, 0x55, 0x01, 0x00⟩ 0x7777 0x00 [0x08#8] [])
    (fun t => t.regs == ⟨0x11, 0x00, 0x01, 0x44, 0x55, 0x00, 0xFF⟩ && t.sp == 0x7777#16 && t.pc == 0x0101#16 &&
      agrees t.flags 0xE3 0x00 && t.ctl == Control.afterReset) = true := by decide

/-- V122, `JNUI 2000H (UI=0, taken)` -/
theorem test_jnui_taken : after (cpu ⟨0x11, 0x22, 0x33, 0x44, 0x55, 0x66, 0x77⟩ 0x7777 0x00 [0xDD#8, 0x00#8, 0x20#8] [])
    (fun t => t.regs == ⟨0x11, 0x22, 0x33, 0x44, 0x55, 0x66, 0x77⟩ && t.sp == 0x7777#16 && t.pc == 0x2000#16 &&
      agrees t.flags 0xF7 0x00 && t.ctl == Control.afterReset) = true := by decide

/-- V123, `JNUI 2000H (UI=1, not taken)` -/
theorem test_jnui_not_taken : after (cpu ⟨0x11, 0x22, 0x33, 0x44, 0x55, 0x66, 0x77⟩ 0x7777 0x20 [0xDD#8, 0x00#8, 0x20#8] [])
    (fun t => t.regs == ⟨0x11, 0x22, 0x33, 0x44, 0x55, 0x66, 0x77⟩ && t.sp == 0x7777#16 && t.pc == 0x0103#16 &&
      agrees t.flags 0xF7 0x20 && t.ctl == Control.afterReset && t.bus.length == 2) = true := by decide

/-- V124, `JUI 2000H (UI=1, taken)` -/
theorem test_jui_taken : after (cpu ⟨0x11, 0x22, 0x33, 0x44, 0x55, 0x66, 0x77⟩ 0x7777 0x20 [0xFD#8, 0x00#8, 0x20#8] [])
    (fun t => t.regs == ⟨0x11, 0x22, 0x33, 0x44, 0x55, 0x66, 0x77⟩ && t.sp == 0x7777#16 && t.pc == 0x2000#16 &&
      agrees t.flags 0xF7 0x20 && t.ctl == Control.afterReset) = true := by decide

/-- V125, `JUI 2000H (UI=0, not taken)` -/
theorem test_jui_not_taken : after (cpu ⟨0x11, 0x22, 0x33, 0x44, 0x55, 0x66, 0x77⟩ 0x7777 0x00 [0xFD#8, 0x00#8, 0x20#8] [])
    (fun t => t.regs == ⟨0x11, 0x22, 0x33, 0x44, 0x55, 0x66, 0x77⟩ && t.sp == 0x7777#16 && t.pc == 0x0103#16 &&
      agrees t.flags 0xF7 0x00 && t.ctl == Control.afterReset && t.bus.length == 2) = true := by decide

/-- V127, `LDHI 0FFH` -/
theorem test_ldhi : after (cpu ⟨0x11, 0x22, 0x33, 0x00, 0x00, 0x12, 0x34⟩ 0x7777 0x00 [0x28#8, 0xFF#8] [])
    (fun t => t.regs == ⟨0x11, 0x22, 0x33, 0x13, 0x33, 0x12, 0x34⟩ && t.sp == 0x7777#16 && t.pc == 0x0102#16 &&
      agrees t.flags 0xF7 0x00 && t.ctl == Control.afterReset) = true := by decide

/-- V131, `LDSI 0FFH` -/
theorem test_ldsi : after (cpu ⟨0x11, 0x22, 0x33, 0x00, 0x00, 0x66, 0x77⟩ 0xFF80 0x00 [0x38#8, 0xFF#8] [])
    (fun t => t.regs == ⟨0x11, 0x22, 0x33, 0x00, 0x7F, 0x66, 0x77⟩ && t.sp == 0xFF80#16 && t.pc == 0x0102#16 &&
      agrees t.flags 0xF7 0x00 && t.ctl == Control.afterReset) = true := by decide

/-- V133, `LHLX` -/
theorem test_lhlx :
    after (cpu ⟨0x11, 0x22, 0x33, 0xFF, 0xFF, 0x00, 0x00⟩ 0x7777 0x00 [0xED#8] [(0x0000#16, 0xAB#8), (0xFFFF#16, 0xCD#8)])
    (fun t => t.regs == ⟨0x11, 0x22, 0x33, 0xFF, 0xFF, 0xAB, 0xCD⟩ && t.sp == 0x7777#16 && t.pc == 0x0101#16 &&
      agrees t.flags 0xF7 0x00 && t.ctl == Control.afterReset) = true := by decide

/-- V136, `RDEL` -/
theorem test_rdel : after (cpu ⟨0x11, 0x22, 0x33, 0x80, 0x01, 0x66, 0x77⟩ 0x7777 0x00 [0x18#8] [])
    (fun t => t.regs == ⟨0x11, 0x22, 0x33, 0x00, 0x02, 0x66, 0x77⟩ && t.sp == 0x7777#16 && t.pc == 0x0101#16 &&
      agrees t.flags 0xF7 0x03 && t.ctl == Control.afterReset) = true := by decide

/-- V137, `RDEL` -/
theorem test_rdel_in : after (cpu ⟨0x11, 0x22, 0x33, 0x40, 0x00, 0x66, 0x77⟩ 0x7777 0x01 [0x18#8] [])
    (fun t => t.regs == ⟨0x11, 0x22, 0x33, 0x80, 0x01, 0x66, 0x77⟩ && t.sp == 0x7777#16 && t.pc == 0x0101#16 &&
      agrees t.flags 0xF7 0x02 && t.ctl == Control.afterReset) = true := by decide

/-- V140, `RSTV (V=1)` -/
theorem test_rstv_taken : after (cpu ⟨0x11, 0x22, 0x33, 0x44, 0x55, 0x66, 0x77⟩ 0x4000 0x02 [0xCB#8] [])
    (fun t => t.regs == ⟨0x11, 0x22, 0x33, 0x44, 0x55, 0x66, 0x77⟩ && t.sp == 0x3FFE#16 && t.pc == 0x0040#16 &&
      agrees t.flags 0xF7 0x02 && t.peek 0x3FFE == 0x01#8 && t.peek 0x3FFF == 0x01#8 &&
      t.ctl == Control.afterReset) = true := by decide

/-- V141, `RSTV (V=0)` -/
theorem test_rstv_not_taken : after (cpu ⟨0x11, 0x22, 0x33, 0x44, 0x55, 0x66, 0x77⟩ 0x4000 0x00 [0xCB#8] [])
    (fun t => t.regs == ⟨0x11, 0x22, 0x33, 0x44, 0x55, 0x66, 0x77⟩ && t.sp == 0x4000#16 && t.pc == 0x0101#16 &&
      agrees t.flags 0xF7 0x00 && t.ctl == Control.afterReset) = true := by decide

/-- V135, `SHLX` -/
theorem test_shlx : after (cpu ⟨0x11, 0x22, 0x33, 0xFF, 0xFF, 0x12, 0x34⟩ 0x7777 0x00 [0xD9#8] [])
    (fun t => t.regs == ⟨0x11, 0x22, 0x33, 0xFF, 0xFF, 0x12, 0x34⟩ && t.sp == 0x7777#16 && t.pc == 0x0101#16 &&
      agrees t.flags 0xF7 0x00 && t.peek 0x0000 == 0x12#8 && t.peek 0xFFFF == 0x34#8 &&
      t.ctl == Control.afterReset) = true := by decide

/-! ## Well-formedness, decoding -/

/-- R95: there is no restart number above 7. -/
theorem test_wellFormed_refuses_rst_eight : Instr.wellFormed (.rst 8) = false := by decide

/-- R95: 7 is the last restart number. -/
theorem test_wellFormed_takes_rst_seven : Instr.wellFormed (.rst 7) = true := by decide

/-- R121 to R133: words written out from the encodings. -/
theorem test_decode_transfer :
    [([0b01011111#8], .movRR .e .a), ([0b01001110#8], .movRM .c), ([0b01110011#8], .movMR .e),
     ([0b00001110#8, 0xFF#8], .mviR .c 0xFF#8), ([0b00110110#8, 0x3C#8], .mviM 0x3C#8),
     ([0b00100001#8, 0x50#8, 0x20#8], .lxi .hl 0x2050#16), ([0b00111010#8, 0x00#8, 0x21#8], .lda 0x2100#16),
     ([0b00110010#8, 0x01#8, 0x21#8], .sta 0x2101#16), ([0b00101010#8, 0x00#8, 0x22#8], .lhld 0x2200#16),
     ([0b00100010#8, 0x00#8, 0x23#8], .shld 0x2300#16), ([0b00001010#8], .ldax .bc), ([0b00011010#8], .ldax .de),
     ([0b00000010#8], .stax .bc), ([0b00010010#8], .stax .de), ([0b11101011#8], .xchg)].all reads = true := by decide

/-- R21: the codes of the registers, and code 110 for M. -/
theorem test_decode_registers :
    [([0b01111000#8], .movRR .a .b), ([0b01111001#8], .movRR .a .c), ([0b01111010#8], .movRR .a .d),
     ([0b01111011#8], .movRR .a .e), ([0b01111100#8], .movRR .a .h), ([0b01111101#8], .movRR .a .l),
     ([0b01111110#8], .movRM .a), ([0b01111111#8], .movRR .a .a)].all reads = true := by decide

/-- R141 to R162: words written out from the encodings. -/
theorem test_decode_arithmetic :
    [([0b10000000#8], .addR .b), ([0b10000110#8], .addM), ([0b11000110#8, 0x42#8], .adi 0x42#8), ([0b10001001#8], .adcR .c),
     ([0b10001110#8], .adcM), ([0b11001110#8, 0x00#8], .aci 0x00#8), ([0b10010000#8], .subR .b), ([0b10010110#8], .subM),
     ([0b11010110#8, 0x01#8], .sui 0x01#8), ([0b10011101#8], .sbbR .l), ([0b10011110#8], .sbbM),
     ([0b11011110#8, 0xFF#8], .sbi 0xFF#8), ([0b00001100#8], .inrR .c), ([0b00110100#8], .inrM), ([0b00000101#8], .dcrR .b),
     ([0b00110101#8], .dcrM), ([0b00100011#8], .inx .hl), ([0b00111011#8], .dcx .sp), ([0b00001001#8], .dad .bc),
     ([0b00100111#8], .daa)].all reads = true := by decide

/-- R171 to R189: words written out from the encodings. -/
theorem test_decode_logical :
    [([0b10100001#8], .anaR .c), ([0b10100110#8], .anaM), ([0b11100110#8, 0x0F#8], .ani 0x0F#8), ([0b10101000#8], .xraR .b),
     ([0b10101110#8], .xraM), ([0b11101110#8, 0x81#8], .xri 0x81#8), ([0b10110001#8], .oraR .c), ([0b10110110#8], .oraM),
     ([0b11110110#8, 0x0F#8], .ori 0x0F#8), ([0b10111011#8], .cmpR .e), ([0b10111110#8], .cmpM),
     ([0b11111110#8, 0x40#8], .cpi 0x40#8), ([0b00000111#8], .rlc), ([0b00001111#8], .rrc), ([0b00010111#8], .ral),
     ([0b00011111#8], .rar), ([0b00101111#8], .cma), ([0b00111111#8], .cmc), ([0b00110111#8], .stc)].all reads = true := by
  decide

/-- R201 to R232: words written out from the encodings. -/
theorem test_decode_branch :
    [([0b11000011#8, 0x00#8, 0x3E#8], .jmp 0x3E00#16), ([0b11000010#8, 0x34#8, 0x12#8], .jnz 0x1234#16),
     ([0b11001010#8, 0x34#8, 0x12#8], .jz 0x1234#16), ([0b11010010#8, 0x34#8, 0x12#8], .jnc 0x1234#16),
     ([0b11011010#8, 0x34#8, 0x12#8], .jc 0x1234#16), ([0b11100010#8, 0x34#8, 0x12#8], .jpo 0x1234#16),
     ([0b11101010#8, 0x34#8, 0x12#8], .jpe 0x1234#16), ([0b11110010#8, 0x34#8, 0x12#8], .jp 0x1234#16),
     ([0b11111010#8, 0x34#8, 0x12#8], .jm 0x1234#16), ([0b11001101#8, 0x00#8, 0x30#8], .call 0x3000#16),
     ([0b11000100#8, 0x00#8, 0x30#8], .cnz 0x3000#16), ([0b11001100#8, 0x00#8, 0x30#8], .cz 0x3000#16),
     ([0b11010100#8, 0x00#8, 0x30#8], .cnc 0x3000#16), ([0b11011100#8, 0x00#8, 0x30#8], .cc 0x3000#16),
     ([0b11100100#8, 0x00#8, 0x30#8], .cpo 0x3000#16), ([0b11101100#8, 0x00#8, 0x30#8], .cpe 0x3000#16),
     ([0b11110100#8, 0x00#8, 0x30#8], .cp 0x3000#16), ([0b11111100#8, 0x00#8, 0x30#8], .cm 0x3000#16), ([0b11001001#8], .ret),
     ([0b11000000#8], .rnz), ([0b11001000#8], .rz), ([0b11010000#8], .rnc), ([0b11011000#8], .rc), ([0b11100000#8], .rpo),
     ([0b11101000#8], .rpe), ([0b11110000#8], .rp), ([0b11111000#8], .rm), ([0b11101111#8], .rst 5), ([0b11101001#8], .pchl)
    ].all reads = true := by decide

/-- R240 to R256 and R271 to R280: words written out from the encodings. -/
theorem test_decode_control_and_extended :
    [([0b11000101#8], .pushRp .bc), ([0b11110101#8], .pushPsw), ([0b11100001#8], .popRp .hl), ([0b11110001#8], .popPsw),
     ([0b11100011#8], .xthl), ([0b11111001#8], .sphl), ([0b11011011#8, 0x10#8], .inp 0x10#8),
     ([0b11010011#8, 0x20#8], .out 0x20#8), ([0b11111011#8], .ei), ([0b11110011#8], .di), ([0b01110110#8], .hlt),
     ([0b00000000#8], .nop), ([0b00100000#8], .rim), ([0b00110000#8], .sim), ([0b00010000#8], .arhl), ([0b00001000#8], .dsub),
     ([0b11011101#8, 0x34#8, 0x12#8], .jnui 0x1234#16), ([0b11111101#8, 0x34#8, 0x12#8], .jui 0x1234#16),
     ([0b00101000#8, 0x10#8], .ldhi 0x10#8), ([0b00111000#8, 0x04#8], .ldsi 0x04#8), ([0b11101101#8], .lhlx),
     ([0b00011000#8], .rdel), ([0b11001011#8], .rstv), ([0b11011001#8], .shlx)].all reads = true := by decide

/-- R101: an instruction wants all its bytes. -/
theorem test_decode_wants_bytes : reads ([0b11000011#8, 0x00#8], .jmp 0x0000#16) = false := by decide

/-- A word placed where the next step fetches is the instruction that step runs: MVI A,12H, then pc + 2 (R124). -/
theorem test_withFetchWord : after (State.reset.withFetchWord 16 0x123E)
    (fun t => t.regs.a == 0x12#8 && t.pc == 0x0002#16) = true := by decide

/-! ## Memory: wrapping, ROM -/

/-- R69: an instruction that starts at FFFFH takes its second byte from 0000H. -/
theorem test_fetch_wraps : after { State.reset with pc := 0xFFFF#16, mem := ram [(0xFFFF#16, 0x3E#8), (0x0000#16, 0x9A#8)] }
    (fun t => t.regs.a == 0x9A#8 && t.pc == 0x0001#16) = true := by decide

/-- A map with ROM at 2000H to 2FFFH and nothing at 3000H. -/
def mapped (s : State) : State := { s with memMap := [⟨0x2000, 0x1000, .rom⟩, ⟨0x3000, 1, .absent⟩] }

/-- R71: a write to ROM changes no state. -/
theorem test_write_to_rom : after (mapped (cpu ⟨0x42, 0, 0, 0, 0, 0x20, 0x00⟩ 0 0 [0x77#8] [(0x2000#16, 0x55#8)]))
    (fun t => t.peek 0x2000 == 0x55#8 && t.bus.head? == some (.memoryWrite 0x2000 0x42)) = true := by decide

/-! ## Interrupts, RESET IN, HOLD -/

/-- A machine at 2001H with SP = 4000H and interrupts enabled, none masked, that has just sampled `e`. -/
def sampled (e : Sample) (c : Control) : State :=
  { State.reset with
    pc := 0x2001#16
    sp := 0x4000#16
    ctl := { c with m75 := false, m65 := false, m55 := false }
    inputs := [e] }

/-- INTE is set and nothing else. -/
def enabled : Control := { Control.afterReset with inte := true }

/-- The entry of an interrupt at 2001H with SP = 4000H. -/
def entered (vector : Word) (t : State) : Bool :=
  t.pc == vector && t.sp == 0x3FFE#16 && t.peek 0x3FFF == 0x20#8 && t.peek 0x3FFE == 0x01#8 && !t.ctl.inte && !t.ctl.halted

/-- R310, R316: all five are requested, and TRAP is taken; R324: the old INTE is saved. -/
theorem test_trap_first :
    after (sampled { Sample.idle with trapEdge := true, trap := true, rst75Edge := true, rst65 := true, rst55 := true, intr := true } enabled)
      (fun t => entered 0x0024 t && t.ctl.trapSaved && t.ctl.trapArmed && !t.ctl.trapL && t.ctl.r75) = true := by decide

/-- R304, R316. -/
theorem test_rst75_entry : after (sampled { Sample.idle with rst75Edge := true, rst65 := true } enabled)
    (fun t => entered 0x003C t && !t.ctl.r75) = true := by decide

/-- R305, R316; R250: the halt ends. -/
theorem test_rst65_ends_halt :
    after (sampled { Sample.idle with rst65 := true, rst55 := true }
      { enabled with halted := true }) (entered 0x0034) = true := by
  decide

/-- R306, R316. -/
theorem test_rst55_entry : after (sampled { Sample.idle with rst55 := true, intr := true } enabled) (entered 0x002C) = true := by
  decide

/-- The example of R319. -/
theorem test_intr_rst : after (sampled { Sample.idle with intr := true, inta0 := 0xD7#8 } enabled) (entered 0x0010) = true := by
  decide

/-- The example of R320. -/
theorem test_intr_call :
    after (sampled { Sample.idle with intr := true, inta0 := 0xCD#8, inta1 := 0x00#8, inta2 := 0x30#8 } enabled) (entered 0x3000)
      = true := by decide

/-- R321: another byte is refused by name. -/
theorem test_intr_other : step (sampled { Sample.idle with intr := true, inta0 := 0x00#8 } enabled) =
    .refused (.acknowledgedOther 0x00#8) := rfl

/-- R312: right after EI no maskable request is taken: the instruction at pc (NOP) executes and EIPEND is cleared. -/
theorem test_ei_delay : after (sampled { Sample.idle with rst65 := true } { enabled with eiPend := true })
    (fun t => t.pc == 0x2002#16 && t.ctl.inte && !t.ctl.eiPend) = true := by decide

/-- R39: a TRAP pin that stays high without a new edge causes no request. -/
theorem test_trap_needs_edge : after (sampled { Sample.idle with trap := true } enabled) (fun t => t.pc == 0x2002#16) = true := by
  decide

/-- R43: while HALTED is 1 nothing is fetched. -/
theorem test_halted : after (sampled Sample.idle { enabled with halted := true })
    (fun t => t.pc == 0x2001#16 && t.ctl.halted && t.bus == []) = true := by decide

/-- R49: RESET IN. -/
theorem test_reset_in : after (sampled { Sample.idle with resetIn := true } enabled)
    (fun t => t.pc == 0x0000#16 && t.ctl == Control.afterReset && t.resetOut) = true := by decide

/-- R328, R75: HOLD; the other master writes. -/
theorem test_hold : after (sampled { Sample.idle with hold := true, master := [(0x1234#16, 0x56#8)] } enabled)
    (fun t => t.ctl.hlda && t.pc == 0x2001#16 && t.peek 0x1234 == 0x56#8 && t.bus == []) = true := by decide

/-- `INR M` at 0000H with HL = 0000H, stopped by HOLD between its read and its write, where another master writes 42H at FFFFH;
then come these samples. -/
def heldInrM (next : List Sample) : State :=
  { State.reset with
    mem := ram [(0x0000#16, 0x34#8)]
    inputs := { Sample.idle with cycles := [.undisturbed, .undisturbed, .hold [(0xFFFF#16, 0x42#8)]] } :: next }

/-- R328, R46: HLDA is 1 inside an instruction, which waits. -/
theorem test_hold_inside : after (heldInrM [])
    (fun t => t.ctl.hlda && t.holdAcknowledge && t.peek 0x0000 == 0x34#8 && t.peek 0xFFFF == 0x42#8 && t.bus.length == 2)
      = true := by decide

/-- R328: it waits for as long as HOLD is high. -/
theorem test_hold_endless : after (heldInrM []) (fun t => after t (fun u => u.ctl.hlda && u.suspended == t.suspended &&
    u.peek 0x0000 == 0x34#8 && u.bus == t.bus)) = true := by decide

/-- R328, R67: when HOLD goes low the same instruction goes on with its next cycle. -/
theorem test_hold_ends : after (heldInrM [Sample.idle]) (fun t => after t (fun u => !u.ctl.hlda && u.suspended == none &&
    u.pc == 0x0001#16 && u.peek 0x0000 == 0x35#8 && u.peek 0xFFFF == 0x42#8 &&
    u.bus == [.memoryWrite 0x0000 0x35, .memoryRead 0x0000 0x34, .opcodeFetch 0x0000 0x34])) = true := by decide

/-- R328, R350: RESET IN during the hold clears HLDA, and the write is never made. -/
theorem test_hold_reset : after (heldInrM [{ Sample.idle with resetIn := true }]) (fun t => after t (fun u => !u.ctl.hlda &&
    u.suspended == none && u.resetOut && u.pc == 0x0000#16 && u.peek 0x0000 == 0x34#8 && u.bus == t.bus)) = true := by decide

/-- R328: an edge during the hold is latched, and the request is recognised after the instruction, which goes on first. -/
theorem test_hold_latches : after (heldInrM [{ Sample.idle with hold := true, trapEdge := true, trap := true }, { Sample.idle with trap := true }])
    (fun t => after t (fun u => u.ctl.trapL && u.ctl.hlda && after u (fun w => w.ctl.trapL && w.pc == 0x0001#16))) = true := by
  decide

/-- R328, R315: a hold between the two writes of an interrupt entry; the entry goes on where it was, though the pin has gone
low. -/
theorem test_hold_entry :
    after (sampled { Sample.idle with rst65 := true, cycles := [.undisturbed, .hold []] } enabled)
      (fun t => t.ctl.hlda && t.pc == 0x2001#16 && t.peek 0x3FFF == 0x20#8 && t.peek 0x3FFE == 0x00#8 &&
        after (t.setInputs [Sample.idle]) (fun u => entered 0x0034 u && u.bus.length == 2 && !u.ctl.hlda)) = true := by decide

/-- R350: RESET IN between the two writes of an interrupt entry. -/
theorem test_reset_inside :
    after (sampled { Sample.idle with rst65 := true, cycles := [.undisturbed, .resetIn] } enabled)
      (fun t => t.pc == 0x0000#16 && t.resetOut && t.peek 0x3FFF == 0x20#8 && t.peek 0x3FFE == 0x00#8) = true := by decide

/-! ## A state for every statement that has hypotheses -/

/-- A machine at 0000H after reset whose memory begins with these bytes. -/
def program (code : List Byte) : State :=
  { State.reset with mem := ram ([0x0000#16, 0x0001#16, 0x0002#16].zip code) }

/-- `DecodeOfEncode`, with the greatest restart number. -/
theorem test_witness_DecodeOfEncode : Instr.wellFormed (.rst 7) = true ∧ encode (.rst 7) = [0xFF#8] := by decide

/-- `EncodeOfDecode`. -/
theorem test_witness_EncodeOfDecode :
    decode [0x21#8, 0x50#8, 0x20#8, 0x76#8] = .ok (.lxi .hl 0x2050#16, [0x76#8]) := rfl

/-- `EveryByteSequenceDecodes`: both ways in which bytes can be wanting. -/
theorem test_witness_EveryByteSequenceDecodes :
    decode [] = .error .noOpcode ∧ decode [0xC3#8, 0x00#8] = .error (.missingOperand 0xC3#8) := ⟨rfl, rfl⟩

/-- `ByteLoads`, `WordLoads`, `ByteStores`, `WordStores`, `Additions`, `Subtractions`, `MemorySteps`, `LogicalOperations`,
`Compares`, `Calls`, `Returns`, `Restarts`, `Pushes`, `Pops`, `ExchangeTop`, `InputOutput` ask for a quiet state only. -/
theorem test_witness_quiet : State.reset.Quiet := ⟨rfl, rfl, rfl⟩

/-- `Calls`, `Returns`, `Restarts`: a quiet state in which the conditions on Z and on V are true, and one in which they are
false. -/
theorem test_witness_conditions :
    (cpu ⟨0, 0, 0, 0, 0, 0, 0⟩ 0 0xF7 [] []).Quiet ∧ (cpu ⟨0, 0, 0, 0, 0, 0, 0⟩ 0 0xF7 [] []).flags.z = true ∧
    (cpu ⟨0, 0, 0, 0, 0, 0, 0⟩ 0 0xF7 [] []).flags.v = true ∧ State.reset.flags.z = false ∧ State.reset.flags.v = false := by
  decide

/-- `InputOutput`: a device presents a byte at the last port. -/
theorem test_witness_InputOutput :
    (State.reset.setEnv { Sample.idle with ports := [(0xFF#8, 0x5A#8)] }).Quiet ∧
    (State.reset.setEnv { Sample.idle with ports := [(0xFF#8, 0x5A#8)] }).env.ports.lookup 0xFF#8 = some 0x5A#8 := by decide

/-- `ByteStores`, `WordStores`, `MemorySteps`, `ExchangeTop`, pushes: a quiet state with RAM at one address and ROM at the
next. -/
theorem test_witness_stored : (mapped State.reset).Quiet ∧ (mapped State.reset).Writable 0x1FFF#16 ∧
    ¬ (mapped State.reset).Writable 0x2000#16 := by decide

/-- `SetInterruptMask`: each enable bit set, and each clear. -/
theorem test_witness_SetInterruptMask :
    (∀ k ∈ [3, 4, 6], (cpu ⟨0xFF, 0, 0, 0, 0, 0, 0⟩ 0 0 [] []).regs.a.getLsbD k = true) ∧
    (∀ k ∈ [3, 4, 6], State.reset.regs.a.getLsbD k = false) := by decide

/-- `StoresAreSeen`, the pair across the end of memory; and HL where pc is. -/
theorem test_witness_StoresAreSeen :
    State.reset.Quiet ∧ State.reset.Writable 0xFFFF#16 ∧ State.reset.Writable (0xFFFF#16 + 1) ∧
    State.reset.pair .hl = State.reset.pc ∧ State.reset.Writable State.reset.pc := by decide

/-- `DecimalAddition`, at the greatest and the least operand. -/
theorem test_witness_DecimalAddition : IsBcd 0x99#8 ∧ IsBcd 0x00#8 ∧ (cpu ⟨0x99, 0, 0, 0, 0, 0, 0⟩ 0 0 [] []).regs.a = 0x99#8 := by
  refine ⟨⟨?_, ?_⟩, ⟨?_, ?_⟩, rfl⟩ <;> decide

/-- What `ConditionalSteps` asks of a step at which `opcode`, 34H, 12H stand at 0000H. -/
abbrev Begins (s : State) (opcode : Byte) : Prop :=
  s.Executes ∧ s.atFetch.Quiet ∧ s.atFetch.Populated s.atFetch.pc ∧ s.atFetch.Populated (s.atFetch.pc + 1) ∧
  s.atFetch.peek s.atFetch.pc = opcode ∧ s.atFetch.peek (s.atFetch.pc + 1) = loByte 0x1234#16

/-- `ConditionalSteps`, a jump taken (JNZ). -/
theorem test_witness_ConditionalSteps_taken :
    Begins (program [0xC2#8, 0x34#8, 0x12#8]) 0xC2#8 ∧ (program [0xC2#8, 0x34#8, 0x12#8]).atFetch.flags.z = false ∧
    (program [0xC2#8, 0x34#8, 0x12#8]).atFetch.Populated 0x0002#16 ∧
    (program [0xC2#8, 0x34#8, 0x12#8]).atFetch.peek 0x0002#16 = hiByte 0x1234#16 := by decide

/-- `ConditionalSteps`, a jump not taken (JUI). -/
theorem test_witness_ConditionalSteps_jump :
    Begins (program [0xFD#8, 0x34#8, 0x12#8]) 0xFD#8 ∧ (program [0xFD#8, 0x34#8, 0x12#8]).atFetch.flags.ui = false := by decide

/-- `ConditionalSteps`, a call not taken (CM). -/
theorem test_witness_ConditionalSteps_call :
    Begins (program [0xFC#8, 0x34#8, 0x12#8]) 0xFC#8 ∧ (program [0xFC#8, 0x34#8, 0x12#8]).atFetch.flags.s = false := by decide

/-- `CallThenReturn`, `FlagByteRoundTrip`: the stack across 0000H. -/
theorem test_witness_stack :
    (State.reset.setSp 0x0001#16).Quiet ∧ (State.reset.setSp 0x0001#16).Writable (0x0001#16 - 1) ∧
    (State.reset.setSp 0x0001#16).Writable (0x0001#16 - 2) := by decide

/-- `MachineControl`: a halted machine with no request. -/
theorem test_witness_MachineControl :
    (sampled Sample.idle { enabled with halted := true }).sample.env.resetIn = false ∧
    (sampled Sample.idle { enabled with halted := true }).sample.env.hold = false ∧
    (sampled Sample.idle { enabled with halted := true }).sample.releaseBus.request = none ∧
    (sampled Sample.idle { enabled with halted := true }).ctl.halted = true ∧
    (sampled Sample.idle { enabled with halted := true }).suspended = none := by decide

/-- `StepRunsDecodedInstruction`, with a three-byte instruction. -/
theorem test_witness_StepRunsDecodedInstruction :
    (program [0xC3#8, 0x34#8, 0x12#8]).Executes ∧ (program [0xC3#8, 0x34#8, 0x12#8]).atFetch.Quiet ∧
    (∀ k < (program [0xC3#8, 0x34#8, 0x12#8]).atFetch.fetchCycles.length,
      (program [0xC3#8, 0x34#8, 0x12#8]).atFetch.Populated (0x0000#16 + BitVec.ofNat 16 k)) ∧
    reads ([0xC3#8, 0x34#8, 0x12#8], .jmp 0x1234#16) = true ∧ Instr.wellFormed (.jmp 0x1234#16) = true := by decide

/-- `RequestPriority`: each of the five requests is made by some sample. -/
theorem test_witness_RequestPriority :
    (sampled { Sample.idle with trapEdge := true, trap := true, intr := true } enabled).sample.request = some (.restart .trap) ∧
    (sampled { Sample.idle with rst75Edge := true, intr := true } enabled).sample.request = some (.restart .rst75) ∧
    (sampled { Sample.idle with rst65 := true, intr := true } enabled).sample.request = some (.restart .rst65) ∧
    (sampled { Sample.idle with rst55 := true, intr := true } enabled).sample.request = some (.restart .rst55) ∧
    (sampled { Sample.idle with intr := true } enabled).sample.request = some .intr ∧
    (sampled Sample.idle enabled).inputs = [Sample.idle] ∧ State.reset.inputs = [] := by decide

/-- R303, R304, R311: edges are latched whatever the masks and INTE are, and the levels stay when no sample is left. -/
theorem test_sampling : after (sampled { Sample.idle with trapEdge := true, rst75Edge := true, sid := true } State.reset.ctl)
    (fun t => t.ctl.trapL && t.ctl.r75 && t.sample.env.sid && !t.sample.env.trapEdge && t.sample.ctl.trapL) = true := by decide

/-- What `RestartEntry`, `IntrEntry` and `RimAfterTrap` ask. -/
abbrev Takes (s : State) (q : Request) : Prop :=
  s.sample.env.resetIn = false ∧ s.sample.env.hold = false ∧ s.sample.releaseBus.request = some q ∧ s.sample.releaseBus.Quiet

/-- `RestartEntry`, `RimAfterTrap`: TRAP. -/
theorem test_witness_RestartEntry_trap :
    Takes (sampled { Sample.idle with trapEdge := true, trap := true } enabled) (.restart .trap) := by decide

/-- `RestartEntry`: RST7.5, RST6.5, RST5.5. -/
theorem test_witness_RestartEntry_maskable :
    Takes (sampled { Sample.idle with rst75Edge := true } enabled) (.restart .rst75) ∧
    Takes (sampled { Sample.idle with rst65 := true } enabled) (.restart .rst65) ∧
    Takes (sampled { Sample.idle with rst55 := true } enabled) (.restart .rst55) := by decide

/-- `IntrEntry`: RST 7, and CALL. -/
theorem test_witness_IntrEntry :
    Takes (sampled { Sample.idle with intr := true, inta0 := 0xFF#8 } enabled) .intr ∧ 0xFF#8 = 0b11#2 ++ 7#3 ++ 0b111#3 ∧
    Takes (sampled { Sample.idle with intr := true, inta0 := 0xCD#8 } enabled) .intr := by decide

/-- `EiDelay`: TRAP while EIPEND is 1; and a step of EI, after which EIPEND is 1. -/
theorem test_witness_EiDelay :
    (State.reset.setCtl { enabled with eiPend := true, trapL := true }).ctl.eiPend = true ∧
    ((State.reset.setCtl { enabled with eiPend := true, trapL := true }).setEnv { Sample.idle with trap := true }).request =
      some (.restart .trap) ∧
    (program [0xFB#8]).Inv ∧ (program [0xFB#8]).boundary = .run .instruction (program [0xFB#8]).atFetch ∧
    (program [0xFB#8]).atFetch.fetchInstr.1 = .ei ∧ (program [0xFB#8]).atFetch.fetchInstr.2.abandoned = false ∧
    ∃ t, step (program [0xFB#8]) = .next t ∧ t.ctl.eiPend = true :=
  ⟨rfl, rfl, ⟨by decide, rfl, by decide, by decide, by decide, by decide⟩, rfl, rfl, rfl, _, rfl, rfl⟩

/-- `ControlFrame`, `FlagTable`, `StackPointerWriters`, `IoOnlyByInAndOut`: an instruction that leaves a next state and is
none of those excepted. -/
theorem test_witness_exec : exec .nop State.reset = .next State.reset ∧ writesSp .nop = false ∧ (∀ p, Instr.nop ≠ .inp p) ∧
    (∀ p, Instr.nop ≠ .out p) := by
  refine ⟨rfl, rfl, ?_, ?_⟩ <;> intro p h <;> cases h

/-- `FlagTable`, `IoOnlyByInAndOut`: an interrupt that is taken. -/
theorem test_witness_entry : ∃ t, (State.reset.accept (.restart .trap)).enter (.restart .trap) = .next t := ⟨_, rfl⟩

/-- `MasksChangeOnlyBySimOrReset`, `InvariantKept`: a state that satisfies the invariant and steps. -/
theorem test_witness_InvariantKept : (program [0x30#8]).Inv ∧ ∃ t, step (program [0x30#8]) = .next t :=
  ⟨⟨by decide, rfl, by decide, by decide, by decide, by decide⟩, _, rfl⟩

/-- `StepOutcomes`: a step that is refused. -/
theorem test_witness_StepOutcomes : (sampled { Sample.idle with intr := true } enabled).suspended = none ∧
    ∃ r, step (sampled { Sample.idle with intr := true } enabled) = .refused r := ⟨rfl, _, rfl⟩

/-- `OnlyRamChanges`: a step, and the ends of the range where no RAM stands. -/
theorem test_witness_OnlyRamChanges :
    (∃ t, step (mapped (program [0x77#8])) = .next t) ∧ ¬ (mapped (program [0x77#8])).Writable 0x2000#16 ∧
    ¬ (mapped (program [0x77#8])).Writable 0x3000#16 ∧ (mapped (program [0x77#8])).Writable 0x1FFF#16 :=
  ⟨⟨_, rfl⟩, by decide, by decide, by decide⟩

/-- `ResetLeaves`, `HoldGrantsBus`: and a step that ends part-way. -/
theorem test_witness_reset_and_hold :
    (sampled { Sample.idle with resetIn := true } enabled).sample.env.resetIn = true ∧
    (sampled { Sample.idle with hold := true } enabled).sample.env.hold = true ∧
    (sampled { Sample.idle with hold := true } enabled).sample.env.resetIn = false ∧
    (heldInrM []).abandoned = false ∧ after (heldInrM []) (fun t => t.suspended != none) = true := by decide

/-- `ResetMidStore`, at the last address. -/
theorem test_witness_ResetMidStore :
    (State.reset.setEnv { Sample.idle with cycles := [.undisturbed, .resetIn] }).abandoned = false ∧
    (State.reset.setEnv { Sample.idle with cycles := [.undisturbed, .resetIn] }).suspended = none ∧
    (State.reset.setEnv { Sample.idle with cycles := [.undisturbed, .resetIn] }).env.cycles = [.undisturbed, .resetIn] ∧
    (State.reset.setEnv { Sample.idle with cycles := [.undisturbed, .resetIn] }).Writable 0xFFFF#16 := by decide

/-- `HoldBetweenReadAndWrite`, the master elsewhere than at HL; `test_hold_ends` and `test_hold_reset` are its two ends. -/
theorem test_witness_HoldBetweenReadAndWrite :
    (heldInrM []).Executes ∧ (heldInrM []).atFetch.abandoned = false ∧
    (heldInrM []).atFetch.env.cycles = [.undisturbed, .undisturbed, .hold [(0xFFFF#16, 0x42#8)]] ∧
    (heldInrM []).atFetch.Populated 0x0000#16 ∧ (heldInrM []).atFetch.pc = 0x0000#16 ∧
    (heldInrM []).atFetch.peek 0x0000#16 = 0x34#8 ∧ (heldInrM []).atFetch.pair .hl = 0x0000#16 ∧
    (heldInrM []).atFetch.Writable 0x0000#16 ∧ (heldInrM []).atFetch.Writable 0xFFFF#16 := by decide

/-- The same: the next sample has HOLD low, or RESET IN. -/
theorem test_witness_HoldBetweenReadAndWrite_ends :
    after (heldInrM [Sample.idle]) (fun t => !t.sample.env.resetIn && !t.sample.env.hold && t.sample.env.cycles == []) = true ∧
    after (heldInrM [{ Sample.idle with resetIn := true }]) (fun t => t.sample.env.resetIn) = true := by decide

end Sys2Proof.Tests
end

section
/-! PROOFS. The state that RESET IN leaves (10_state.md R49; 70_reset_and_hazards.md R350). -/

namespace Sys2Proof.Machine

/-! ## RESET IN, field by field: the fields with a stated value, and those it does not touch -/

@[simp] theorem State.resetIn_pc (s : State) : s.resetIn.pc = 0x0000#16 := rfl
@[simp] theorem State.resetIn_ctl (s : State) :
    s.resetIn.ctl = { Control.afterReset with trapSaved := s.ctl.trapSaved } := rfl
@[simp] theorem State.resetIn_mem (s : State) : s.resetIn.mem = s.mem := rfl
@[simp] theorem State.resetIn_memMap (s : State) : s.resetIn.memMap = s.memMap := rfl
@[simp] theorem State.resetIn_env (s : State) : s.resetIn.env = s.env := rfl
@[simp] theorem State.resetIn_inputs (s : State) : s.resetIn.inputs = s.inputs := rfl
@[simp] theorem State.resetIn_bus (s : State) : s.resetIn.bus = s.bus := rfl
@[simp] theorem State.resetIn_abandoned (s : State) : s.resetIn.abandoned = false := rfl
@[simp] theorem State.resetIn_suspended (s : State) : s.resetIn.suspended = none := rfl

/-- RO follows the RESET IN pin, which the reset itself leaves as sampled. -/
@[simp] theorem State.resetIn_resetOut (s : State) : s.resetIn.resetOut = s.env.resetIn := rfl

/-- RESET IN at the boundary comes before HOLD, requests, and what a HOLD had stopped (log 9). -/
theorem step_of_resetIn {s : State} (h : s.sample.env.resetIn = true) : step s = .next s.sample.resetIn := by
  rcases boundary_cases s with ⟨-, hb⟩ | ⟨hr, -⟩ | ⟨hr, -⟩
  · exact step_done hb
  · simp [h] at hr
  · simp [h] at hr

/-! ## The values that R49 states -/

/-- What R49 states of the machine after reset, as `Obligations.ResetLeaves` lists it. -/
def State.HasResetValues (t : State) : Prop :=
  t.pc = 0x0000#16 ∧ t.ctl.inte = false ∧ t.ctl.hlda = false ∧ t.ctl.m75 = true ∧ t.ctl.m65 = true ∧ t.ctl.m55 = true ∧
  t.ctl.r75 = false ∧ t.ctl.trapL = false ∧ t.ctl.sod = false ∧ t.ctl.halted = false ∧ t.ctl.eiPend = false ∧
  t.ctl.trapArmed = false ∧ t.suspended = none

/-- TRAPIE.saved is the one control bit that R49 leaves open, so it may hold anything. -/
theorem State.hasResetValues_of_ctl {t : State} {b : Bool} (hpc : t.pc = 0x0000#16)
    (hctl : t.ctl = { Control.afterReset with trapSaved := b }) (hsus : t.suspended = none) : t.HasResetValues := by
  simp [State.HasResetValues, hpc, hctl, hsus, Control.afterReset]

theorem State.reset_hasResetValues : State.reset.HasResetValues := State.hasResetValues_of_ctl rfl rfl rfl

theorem State.resetIn_hasResetValues (s : State) : s.resetIn.HasResetValues :=
  State.hasResetValues_of_ctl s.resetIn_pc s.resetIn_ctl s.resetIn_suspended

/-- Settles O57: the step is RESET IN applied to the sampled state, and sampling touches no memory. -/
theorem resetLeaves : Obligations.ResetLeaves := by
  refine ⟨State.reset_hasResetValues, fun s h => ⟨s.sample.resetIn, step_of_resetIn h, ?_, ?_, ?_, ?_⟩⟩
  · exact s.sample.resetIn_hasResetValues
  · rw [State.resetIn_mem, State.sample_mem]
  · rw [State.resetIn_memMap, State.sample_memMap]
  · rw [State.resetIn_resetOut, h]

end Sys2Proof.Machine
end

section
/-! PROOFS. Every first byte is an instruction (30_encoding.md R100): the decoder's result is well formed and encodes to as
many bytes as its first byte announces, so that decoding fails only for want of bytes. -/

namespace Sys2Proof

/-! ## What the decoder builds is well formed -/

/-- Most branches of the decoder end in a constructor; the others look at bit 3 of the first byte or at a register code. -/
theorem decode00_wellFormed (y z : BitVec 3) (d8 : Byte) (a16 : Word) : (decode00 y z d8 a16).wellFormed = true := by
  unfold decode00
  split
  case h_9 | h_18 => split_ifs <;> rfl
  case h_19 | h_20 | h_21 => cases Reg.ofCode y <;> rfl
  all_goals rfl

theorem decode01_wellFormed (ddd sss : BitVec 3) : (decode01 ddd sss).wellFormed = true := by
  unfold decode01
  split <;> rfl

theorem decode10_wellFormed (ooo sss : BitVec 3) : (decode10 ooo sss).wellFormed = true := by
  unfold decode10
  split <;> rfl

/-- The restart number is the one operand with a bound (R95), and a 3-bit field keeps it. -/
theorem decode11_wellFormed (y z : BitVec 3) (d8 : Byte) (a16 : Word) : (decode11 y z d8 a16).wellFormed = true := by
  unfold decode11
  split
  case h_13 | h_42 => cases StackPair.ofCode (y.extractLsb' 1 2) <;> rfl
  case h_51 => exact decide_eq_true y.isLt
  all_goals rfl

theorem decodeWith_wellFormed (b0 b1 b2 : Byte) : (decodeWith b0 b1 b2).wellFormed = true := by
  simp only [decodeWith]
  split
  · exact decode00_wellFormed ..
  · exact decode01_wellFormed ..
  · exact decode10_wellFormed ..
  · exact decode11_wellFormed ..

/-! ## The length is the first byte's alone (R101) -/

/-- LXI beside DAD and MVI to a register beside MVI M are the branches that carry an operand under a further choice. -/
theorem length_encode_decode00 (y z : BitVec 3) (d d' : Byte) (a a' : Word) :
    (encode (decode00 y z d a)).length = (encode (decode00 y z d' a')).length := by
  unfold decode00
  split
  case h_9 => split_ifs <;> rfl
  case h_21 => cases Reg.ofCode y <;> rfl
  all_goals rfl

theorem length_encode_decode11 (y z : BitVec 3) (d d' : Byte) (a a' : Word) :
    (encode (decode11 y z d a)).length = (encode (decode11 y z d' a')).length := by
  unfold decode11
  split <;> rfl

/-- The bytes after the first choose operand values only. -/
theorem length_encode_decodeWith_congr (b0 b1 b2 c1 c2 : Byte) :
    (encode (decodeWith b0 b1 b2)).length = (encode (decodeWith b0 c1 c2)).length := by
  simp only [decodeWith]
  split
  · exact length_encode_decode00 ..
  · rfl
  · rfl
  · exact length_encode_decode11 ..

/-- The opcode map against the table of lengths, over the 256 first bytes. -/
theorem length_encode_decodeWith_zero : ∀ b0 : Byte, (encode (decodeWith b0 0 0)).length = opcodeLength b0 := by
  decide

theorem length_encode_decodeWith (b0 b1 b2 : Byte) : (encode (decodeWith b0 b1 b2)).length = opcodeLength b0 :=
  (length_encode_decodeWith_congr ..).trans (length_encode_decodeWith_zero b0)

/-! ## The decoder on a list of bytes -/

theorem decode_cons_of_le {b0 : Byte} {rest : List Byte} (h : opcodeLength b0 ≤ rest.length + 1) :
    decode (b0 :: rest) =
      .ok (decodeWith b0 (rest.getD 0 0x00#8) (rest.getD 1 0x00#8), rest.drop (opcodeLength b0 - 1)) := by
  simp [decode, Nat.not_lt.mpr h]

theorem decode_cons_of_lt {b0 : Byte} {rest : List Byte} (h : rest.length + 1 < opcodeLength b0) :
    decode (b0 :: rest) = .error (.missingOperand b0) := by
  simp [decode, h]

/-- Three bytes are enough for every instruction, and what is left over is what its encoding does not take. -/
theorem decode_three (b0 b1 b2 : Byte) :
    decode [b0, b1, b2] =
      .ok (decodeWith b0 b1 b2, [b0, b1, b2].drop (encode (decodeWith b0 b1 b2)).length) := by
  have hlen := opcodeLength_range b0
  rw [length_encode_decodeWith, decode_cons_of_le (by simp only [List.length_cons, List.length_nil]; omega)]
  rcases hlen with h | h | h <;> simp [h]

/-- Bytes are wanting: there is no first one, or fewer than it announces. -/
theorem wanting_of_decode_eq_error {bytes : List Byte} {e : DecodeError} (h : decode bytes = .error e) :
    (bytes = [] ∧ e = .noOpcode) ∨
      ∃ b rest, bytes = b :: rest ∧ e = .missingOperand b ∧ bytes.length < opcodeLength b := by
  cases bytes with
  | nil =>
    cases h
    exact .inl ⟨rfl, rfl⟩
  | cons b rest =>
    rcases Nat.lt_or_ge (rest.length + 1) (opcodeLength b) with hlt | hle
    · rw [decode_cons_of_lt hlt] at h
      cases h
      exact .inr ⟨b, rest, rfl, rfl, hlt⟩
    · rw [decode_cons_of_le hle] at h
      cases h

end Sys2Proof

namespace Sys2Proof.Machine

@[simp] theorem Regs.set_get_self (x : Regs) (r : Reg) : x.set r (x.get r) = x := by cases r <;> rfl

@[simp] theorem State.setReg_reg_self (s : State) (r : Reg) : s.setReg r (s.reg r) = s :=
  congrArg s.setRegs (Regs.set_get_self s.regs r)

theorem exec_movRR (dst src : Reg) (s : State) : exec (.movRR dst src) s = .next (s.setReg dst (s.reg src)) := rfl

theorem exec_nop (s : State) : exec .nop s = .next s := rfl

/-- Settles O3: the decoded instruction is as long as its first byte announces; a register written with itself is unchanged. -/
theorem everyByteSequenceDecodes : Obligations.EveryByteSequenceDecodes := by
  refine ⟨fun b0 b1 b2 => ?_, fun _ _ => wanting_of_decode_eq_error, fun r s => ?_, exec_nop⟩
  · exact ⟨decodeWith b0 b1 b2, decodeWith_wellFormed b0 b1 b2, decode_three b0 b1 b2⟩
  · rw [exec_movRR, State.setReg_reg_self]

end Sys2Proof.Machine
end

section
/-! PROOFS. The data transfer instructions (40_data_transfer.md; 44_stack_io_control.md R245; 45_extended.md R277, R280): what a
register and a pair read after a write, what a load and a store leave of the whole state, and each instruction as one of these. -/

namespace Sys2Proof.Machine

variable {s t u : State}

/-! ## Registers: a read after a write -/

@[simp] theorem Regs.get_set_same (x : Regs) (r : Reg) (v : Byte) : (x.set r v).get r = v := by cases r <;> rfl

theorem Regs.get_set_other (x : Regs) {q r : Reg} (v : Byte) (h : q ≠ r) : (x.set r v).get q = x.get q := by
  cases q <;> cases r
  case a.a | b.b | c.c | d.d | e.e | h.h | l.l => exact absurd rfl h
  all_goals rfl

theorem regWritten_setReg (s : State) (r : Reg) (v : Byte) : RegWritten s (s.setReg r v) r v :=
  ⟨Regs.get_set_same s.regs r v, fun _ hq => Regs.get_set_other s.regs v hq⟩

theorem onlyRegs_setReg (s : State) (r : Reg) (v : Byte) : OnlyRegs s (s.setReg r v) := rfl

/-! ## Pairs: a read after a write -/

@[simp] theorem State.pair_setPair_same (s : State) (rp : Pair) (v : Word) : (s.setPair rp v).pair rp = v := by
  cases rp with
  | sp => rfl
  | bc | de | hl => exact ofBytes_hiByte_loByte v

theorem State.pair_setPair_other (s : State) {q rp : Pair} (v : Word) (h : q ≠ rp) :
    (s.setPair rp v).pair q = s.pair q := by
  cases q <;> cases rp
  case bc.bc | de.de | hl.hl | sp.sp => exact absurd rfl h
  all_goals rfl

@[simp] theorem State.setPair_a (s : State) (rp : Pair) (v : Word) : (s.setPair rp v).regs.a = s.regs.a := by
  cases rp <;> rfl

/-- SP is among the pairs, so that a write of one can change SP beside the data registers. -/
theorem State.setPair_whole (s : State) (rp : Pair) (v : Word) :
    s.setPair rp v = (s.setRegs (s.setPair rp v).regs).setSp (s.setPair rp v).sp := by
  cases rp <;> rfl

theorem pairWritten_setPair (s : State) (rp : Pair) (v : Word) : PairWritten s (s.setPair rp v) rp v :=
  ⟨s.pair_setPair_same rp v, fun _ hq => s.pair_setPair_other v hq, s.setPair_a rp v⟩

/-- L and H written one after the other are HL written once. -/
theorem setReg_l_setReg_h (s : State) (hi lo : Byte) : (s.setReg .l lo).setReg .h hi = s.setPair .hl (ofBytes hi lo) := by
  simp only [State.setPair, Regs.setHl, hiByte_ofBytes, loByte_ofBytes]
  rfl

/-! ## Loads -/

theorem loadReg_seen (dst : Reg) (a : Word) (h : s.Quiet) : s.loadReg dst a = (s.afterRead a).setReg dst (s.seen a) := by
  simp only [State.loadReg, memRead_seen a h]

/-- No read depends on a data register, so that L may be written before the byte for H is read. -/
theorem afterRead_setReg (s : State) (r : Reg) (v : Byte) (a : Word) :
    (s.setReg r v).afterRead a = (s.afterRead a).setReg r v := rfl

theorem loadHl_seen (a : Word) (h : s.Quiet) : s.loadHl a = (s.afterRead16 a).setPair .hl (s.seen16 a) := by
  have hl : ((s.afterRead a).setReg .l (s.seen a)).Quiet := h
  rw [State.loadHl, loadReg_seen .l a h, loadReg_seen .h (a + 1) hl, afterRead_setReg, setReg_l_setReg_h]
  rfl

/-- The instruction reads one byte, at `a`, into `dst`, and does nothing else. -/
def LoadsByte (s : State) (i : Instr) (dst : Reg) (a : Word) : Prop :=
  ∃ t, exec i s = .next t ∧ RegWritten s t dst (s.seen a) ∧ OnlyRegs (s.afterRead a) t

theorem loadsByte_of_exec {i : Instr} {dst : Reg} {a : Word} (h : s.Quiet) (hi : exec i s = .next (s.loadReg dst a)) :
    LoadsByte s i dst a := by
  rw [loadReg_seen dst a h] at hi
  exact ⟨_, hi, regWritten_setReg (s.afterRead a) dst _, onlyRegs_setReg _ dst _⟩

/-- The instruction reads L at `a` and then H at the next address, and does nothing else. -/
def LoadsHl (s : State) (i : Instr) (a : Word) : Prop :=
  ∃ t, exec i s = .next t ∧ PairWritten s t .hl (s.seen16 a) ∧ OnlyRegs (s.afterRead16 a) t

theorem loadsHl_of_exec {i : Instr} {a : Word} (h : s.Quiet) (hi : exec i s = .next (s.loadHl a)) : LoadsHl s i a := by
  rw [loadHl_seen a h] at hi
  exact ⟨_, hi, pairWritten_setPair (s.afterRead16 a) .hl _, rfl⟩

/-! ## Stores -/

theorem OnlyMemoryAndBus.trans (h : OnlyMemoryAndBus s t) (k : OnlyMemoryAndBus t u) : OnlyMemoryAndBus s u := by
  unfold OnlyMemoryAndBus at h k ⊢
  rw [h] at k
  exact k

theorem onlyMemoryAndBus_memWrite (a : Word) (v : Byte) (h : s.Quiet) : OnlyMemoryAndBus s (s.memWrite a v) := by
  rw [OnlyMemoryAndBus, memWrite_bus a v h]
  exact memWrite_whole a v h

theorem sameMemoryBut_memWrite (a : Word) (v : Byte) (h : s.Quiet) : SameMemoryBut [a] s (s.memWrite a v) :=
  fun _ hb => memWrite_peek_other v h (mt List.mem_singleton.2 hb)

/-- The instruction stores the byte `v`, at `a`, and does nothing else. -/
def StoresByte (s : State) (i : Instr) (a : Word) (v : Byte) : Prop :=
  ∃ t, exec i s = .next t ∧ ByteStored s t a v ∧ SameMemoryBut [a] s t ∧ t.bus = .memoryWrite a v :: s.bus ∧
    OnlyMemoryAndBus s t

theorem storesByte_of_exec {i : Instr} {a : Word} {v : Byte} (h : s.Quiet) (hi : exec i s = .next (s.memWrite a v)) :
    StoresByte s i a v :=
  ⟨_, hi, memWrite_stored a v h, sameMemoryBut_memWrite a v h, memWrite_bus a v h, onlyMemoryAndBus_memWrite a v h⟩

/-- The instruction stores L at `a` and then H at the next address, and does nothing else. -/
def StoresHl (s : State) (i : Instr) (a : Word) : Prop :=
  ∃ t, exec i s = .next t ∧ ByteStored s t a s.regs.l ∧ ByteStored s t (a + 1) s.regs.h ∧ SameMemoryBut [a, a + 1] s t ∧
    t.bus = .memoryWrite (a + 1) s.regs.h :: .memoryWrite a s.regs.l :: s.bus ∧ OnlyMemoryAndBus s t

/-- The two addresses differ even where the second wraps to 0000H, so that neither store undoes the other. -/
theorem storesHl_of_exec {i : Instr} {a : Word} (h : s.Quiet) (hi : exec i s = .next (s.storeHl a)) : StoresHl s i a := by
  have h' : (s.memWrite a s.regs.l).Quiet := quiet_memWrite a _ h
  obtain ⟨hl, hh, hkept⟩ := memWrite_twice s.regs.l s.regs.h h (word_add_one_ne a)
  refine ⟨s.storeHl a, hi, hl, hh, hkept, ?_, ?_⟩
  · rw [State.storeHl, memWrite_bus _ _ h', memWrite_bus _ _ h]
  · exact (onlyMemoryAndBus_memWrite a _ h).trans (onlyMemoryAndBus_memWrite (a + 1) _ h')

/-! ## The meanings, each as one operation -/

theorem exec_mviR (dst : Reg) (v : Byte) (s : State) : exec (.mviR dst v) s = .next (s.setReg dst v) := rfl

theorem exec_lxi (rp : Pair) (w : Word) (s : State) : exec (.lxi rp w) s = .next (s.setPair rp w) := rfl

/-- An exchange is two writes of pairs, each with what the other held before. -/
theorem exec_xchg (s : State) :
    exec .xchg s = .next ((s.setPair .de (s.pair .hl)).setPair .hl (s.pair .de)) := by
  simp only [State.setPair, State.pair, Regs.setDe, Regs.setHl, Regs.de, Regs.hl, hiByte_ofBytes, loByte_ofBytes]
  rfl

theorem exec_sphl (s : State) : exec .sphl s = .next (s.setSp (s.pair .hl)) := rfl

theorem exec_movRM (dst : Reg) (s : State) : exec (.movRM dst) s = .next (s.loadReg dst (s.pair .hl)) := rfl

theorem exec_lda (w : Word) (s : State) : exec (.lda w) s = .next (s.loadReg .a w) := rfl

theorem exec_ldax (rp : IndexPair) (s : State) : exec (.ldax rp) s = .next (s.loadReg .a (s.regs.index rp)) := rfl

theorem exec_lhld (w : Word) (s : State) : exec (.lhld w) s = .next (s.loadHl w) := rfl

theorem exec_lhlx (s : State) : exec .lhlx s = .next (s.loadHl (s.pair .de)) := rfl

theorem exec_movMR (src : Reg) (s : State) : exec (.movMR src) s = .next (s.memWrite (s.pair .hl) (s.reg src)) := rfl

theorem exec_mviM (v : Byte) (s : State) : exec (.mviM v) s = .next (s.memWrite (s.pair .hl) v) := rfl

theorem exec_sta (w : Word) (s : State) : exec (.sta w) s = .next (s.memWrite w s.regs.a) := rfl

theorem exec_stax (rp : IndexPair) (s : State) : exec (.stax rp) s = .next (s.memWrite (s.regs.index rp) s.regs.a) := rfl

theorem exec_shld (w : Word) (s : State) : exec (.shld w) s = .next (s.storeHl w) := rfl

theorem exec_shlx (s : State) : exec .shlx s = .next (s.storeHl (s.pair .de)) := rfl

/-! ## The statements -/

/-- Settles O5: both are one write of a register. -/
theorem registerMoves : Obligations.RegisterMoves := by
  intro s dst src v
  refine ⟨⟨rfl, _, exec_movRR dst src s, ?_, ?_⟩, ⟨rfl, _, exec_mviR dst v s, ?_, ?_⟩⟩
  · exact regWritten_setReg s dst (s.reg src)
  · exact onlyRegs_setReg s dst (s.reg src)
  · exact regWritten_setReg s dst v
  · exact onlyRegs_setReg s dst v

/-- Settles O6: all three are writes of pairs; XCHG is two of them, and the second leaves DE. -/
theorem pairMoves : Obligations.PairMoves := by
  intro s rp w
  refine ⟨⟨rfl, _, exec_lxi rp w s, ?_, ?_⟩, ⟨rfl, _, exec_xchg s, ?_, ?_, ?_, ?_, rfl⟩, ⟨rfl, exec_sphl s⟩⟩
  · exact pairWritten_setPair s rp w
  · exact s.setPair_whole rp w
  · exact State.pair_setPair_same _ .hl _
  · rw [State.pair_setPair_other _ _ (by decide), State.pair_setPair_same]
  · rw [State.pair_setPair_other _ _ (by decide), State.pair_setPair_other _ _ (by decide)]
  · rw [State.setPair_a, State.setPair_a]

/-- Settles O7: each is one load of a byte, at its own address. -/
theorem byteLoads : Obligations.ByteLoads := by
  intro s dst w h
  refine ⟨⟨rfl, ?_⟩, ⟨rfl, ?_⟩, ⟨rfl, ?_⟩, ⟨rfl, ?_⟩⟩
  · exact loadsByte_of_exec h (exec_movRM dst s)
  · exact loadsByte_of_exec h (exec_lda w s)
  · exact loadsByte_of_exec h (exec_ldax .bc s)
  · exact loadsByte_of_exec h (exec_ldax .de s)

/-- Settles O8: both load HL by two reads, at the address given or at DE. -/
theorem wordLoads : Obligations.WordLoads := by
  intro s w h
  exact ⟨⟨rfl, loadsHl_of_exec h (exec_lhld w s)⟩, ⟨rfl, loadsHl_of_exec h (exec_lhlx s)⟩⟩

/-- Settles O9: each is one store of a byte, at its own address. -/
theorem byteStores : Obligations.ByteStores := by
  intro s src v w h
  refine ⟨⟨rfl, ?_⟩, ⟨rfl, ?_⟩, ⟨rfl, ?_⟩, ⟨rfl, ?_⟩, ⟨rfl, ?_⟩⟩
  · exact storesByte_of_exec h (exec_movMR src s)
  · exact storesByte_of_exec h (exec_mviM v s)
  · exact storesByte_of_exec h (exec_sta w s)
  · exact storesByte_of_exec h (exec_stax .bc s)
  · exact storesByte_of_exec h (exec_stax .de s)

/-- Settles O10: both store HL by two writes, at the address given or at DE. -/
theorem wordStores : Obligations.WordStores := by
  intro s w h
  exact ⟨⟨rfl, storesHl_of_exec h (exec_shld w s)⟩, ⟨rfl, storesHl_of_exec h (exec_shlx s)⟩⟩

end Sys2Proof.Machine
end

section
/-! PROOFS. The arithmetic instructions (41_arithmetic.md): what an accumulation, a step of a register, of the byte at HL and of
a pair leave of the whole state, the 16-bit sum and the decimal adjustment as numbers, and each instruction as one of these. -/

namespace Sys2Proof.Machine

variable {s t u : State}

/-! ## Accumulation -/

/-- The instruction writes A and the seven flags, which tell `outcome`, on the state `u` that its read of memory left. -/
def Accumulates (s : State) (i : Instr) (u : State) (outcome : Byte → Flags → Prop) : Prop :=
  ∃ t, exec i s = .next t ∧ outcome t.regs.a t.flags ∧ RegWritten s t .a t.regs.a ∧ t = (u.setRegs t.regs).setFlags t.flags

theorem regWritten_accumulate (s : State) (x : Alu) : RegWritten s (s.accumulate x) .a x.r := regWritten_setReg s .a x.r

theorem RegWritten.of_regs {r : Reg} {v : Byte} (hu : u.regs = s.regs) (h : RegWritten u t r v) : RegWritten s t r v := by
  simpa only [RegWritten, State.reg, hu] using h

theorem accumulates_of_exec {i : Instr} {x : Alu} {outcome : Byte → Flags → Prop} (hu : u.regs = s.regs)
    (hi : exec i s = .next (u.accumulate x)) (ho : outcome x.r x.flags) : Accumulates s i u outcome :=
  ⟨_, hi, ho, (regWritten_accumulate u x).of_regs hu, rfl⟩

theorem accumulates_add {i : Instr} {b : Byte} (hu : u.regs = s.regs) (hi : exec i s = .next (u.add b)) :
    Accumulates s i u (SumOf s.regs.a b 0) :=
  accumulates_of_exec hu hi (hu ▸ add8_sumOf u.regs.a b false)

theorem accumulates_adc {i : Instr} {b : Byte} (hu : u.regs = s.regs) (hf : u.flags = s.flags)
    (hi : exec i s = .next (u.adc b)) : Accumulates s i u (SumOf s.regs.a b s.flags.cy.toNat) :=
  accumulates_of_exec hu hi (hu ▸ hf ▸ add8_sumOf u.regs.a b u.flags.cy)

theorem accumulates_sub {i : Instr} {b : Byte} (hu : u.regs = s.regs) (hi : exec i s = .next (u.sub b)) :
    Accumulates s i u (DifferenceOf s.regs.a b 0) :=
  accumulates_of_exec hu hi (hu ▸ sub8_differenceOf u.regs.a b false)

theorem accumulates_sbb {i : Instr} {b : Byte} (hu : u.regs = s.regs) (hf : u.flags = s.flags)
    (hi : exec i s = .next (u.sbb b)) : Accumulates s i u (DifferenceOf s.regs.a b s.flags.cy.toNat) :=
  accumulates_of_exec hu hi (hu ▸ hf ▸ sub8_differenceOf u.regs.a b u.flags.cy)

/-- An operation with M runs on the byte seen at HL, in the state after that read. -/
theorem withM_seen (f : State → Byte → State) (h : s.Quiet) :
    s.withM f = f (s.afterRead (s.pair .hl)) (s.seen (s.pair .hl)) := by
  simp only [State.withM, memRead_seen s.hl h]
  rfl

/-! ## One more or less, CY kept -/

/-- The instruction writes the register `r` and all flags but CY, which tell `outcome`. -/
def StepsRegister (s : State) (i : Instr) (r : Reg) (outcome : Byte → Flags → Prop) : Prop :=
  ∃ t, exec i s = .next t ∧ outcome (t.reg r) t.flags ∧ t.flags.cy = s.flags.cy ∧ RegWritten s t r (t.reg r) ∧
    t = (s.setRegs t.regs).setFlags t.flags

/-- CY is the one flag of which `SumBut` does not tell. -/
theorem sumBut_flagsKeepingCarry {a b r : Byte} {c : Nat} {x : Alu} (f : Flags) :
    SumBut a b c r (x.flagsKeepingCarry f) ↔ SumBut a b c r x.flags := Iff.rfl

theorem differenceBut_flagsKeepingCarry {a b r : Byte} {c : Nat} {x : Alu} (f : Flags) :
    DifferenceBut a b c r (x.flagsKeepingCarry f) ↔ DifferenceBut a b c r x.flags := Iff.rfl

@[simp] theorem State.stepReg_reg_same (s : State) (r : Reg) (x : Alu) : (s.stepReg r x).reg r = x.r :=
  Regs.get_set_same s.regs r x.r

theorem stepsRegister_of_exec {i : Instr} {r : Reg} {x : Alu} {outcome : Byte → Flags → Prop}
    (hi : exec i s = .next (s.stepReg r x)) (ho : outcome x.r (x.flagsKeepingCarry s.flags)) :
    StepsRegister s i r outcome := by
  refine ⟨_, hi, ?_, rfl, ?_, rfl⟩
  · rw [State.stepReg_reg_same]; exact ho
  · rw [State.stepReg_reg_same]; exact regWritten_setReg s r x.r

/-- The instruction reads the byte at HL, writes it back changed, and all flags but CY, which tell `outcome`. -/
def StepsMemory (s : State) (i : Instr) (outcome : Byte → Flags → Prop) : Prop :=
  ∃ t r, exec i s = .next t ∧ outcome r t.flags ∧ t.flags.cy = s.flags.cy ∧ ByteStored s t (s.pair .hl) r ∧
    SameMemoryBut [s.pair .hl] s t ∧
    t.bus = .memoryWrite (s.pair .hl) r :: .memoryRead (s.pair .hl) (s.seen (s.pair .hl)) :: s.bus ∧
    t = (((s.setMem t.mem).setFlags t.flags).setBus t.bus).setDraws (s.draws + s.seenDraws (s.pair .hl))

/-- The store goes to the address read from: the read leaves HL as it is. -/
theorem stepM_seen (f : Byte → Alu) (h : s.Quiet) :
    s.stepM f = ((s.afterRead (s.pair .hl)).memWrite (s.pair .hl) (f (s.seen (s.pair .hl))).r).setFlags
      ((f (s.seen (s.pair .hl))).flagsKeepingCarry s.flags) := by
  rw [State.stepM, withM_seen _ h]
  rfl

theorem stepsMemory_of_exec {i : Instr} {f : Byte → Alu} {outcome : Byte → Flags → Prop} (h : s.Quiet)
    (hi : exec i s = .next (s.stepM f))
    (ho : outcome (f (s.seen (s.pair .hl))).r ((f (s.seen (s.pair .hl))).flagsKeepingCarry s.flags)) :
    StepsMemory s i outcome := by
  rw [stepM_seen f h] at hi
  have h' : (s.afterRead (s.pair .hl)).Quiet := quiet_afterRead h
  have hbus := memWrite_bus (s.pair .hl) (f (s.seen (s.pair .hl))).r h'
  refine ⟨_, _, hi, ho, rfl, memWrite_stored _ _ h', sameMemoryBut_memWrite _ _ h', hbus, ?_⟩
  rw [State.setFlags_bus, hbus]
  exact congrArg (State.setFlags · _) (memWrite_whole _ _ h')

/-! ## Pairs -/

/-- The instruction writes the pair `rp` and, of the flags, UI. -/
def StepsPair (s : State) (i : Instr) (rp : Pair) (w : Word) (wraps : Prop) : Prop :=
  ∃ t, exec i s = .next t ∧ PairWritten s t rp w ∧ (t.flags.ui = true ↔ wraps) ∧
    t.flags = { s.flags with ui := t.flags.ui } ∧ t = ((s.setRegs t.regs).setSp t.sp).setFlags t.flags

theorem pairWritten_setPair_setFlags (s : State) (rp : Pair) (w : Word) (f : Flags) :
    PairWritten s ((s.setPair rp w).setFlags f) rp w := pairWritten_setPair s rp w

theorem stepsPair_of_exec {i : Instr} {rp : Pair} {w : Word} {ui : Bool} {wraps : Prop}
    (hi : exec i s = .next ((s.setPair rp w).setFlags { s.flags with ui := ui })) (hui : ui = true ↔ wraps) :
    StepsPair s i rp w wraps :=
  ⟨_, hi, pairWritten_setPair_setFlags s rp w _, hui, rfl, congrArg (State.setFlags · _) (s.setPair_whole rp w)⟩

theorem word_add_one_eq_ofNat (w : Word) : w + 1 = BitVec.ofNat 16 (w.toNat + 1) := by
  apply BitVec.eq_of_toNat_eq
  simp [BitVec.toNat_add]

theorem word_sub_one_eq_ofNat (w : Word) : w - 1 = BitVec.ofNat 16 (w.toNat + 65535) := by
  apply BitVec.eq_of_toNat_eq
  simp [BitVec.toNat_sub, Nat.add_comm]

/-- Modulo 65,536 the successor is 0000H after FFFFH only. -/
theorem inxUi_iff (w : Word) : inxUi (w + 1) = true ↔ w.toNat = 65535 := by
  have := w.isLt
  rw [inxUi, word_add_one_eq_ofNat, beq_iff_eq, ← BitVec.toNat_inj]
  simp only [BitVec.toNat_ofNat]
  omega

/-- Modulo 65,536 the predecessor is FFFFH of 0000H only. -/
theorem dcxUi_iff (w : Word) : dcxUi (w - 1) = true ↔ w.toNat = 0 := by
  have := w.isLt
  rw [dcxUi, word_sub_one_eq_ofNat, beq_iff_eq, ← BitVec.toNat_inj]
  simp only [BitVec.toNat_ofNat]
  omega

theorem add16_cy (a b : Word) : (add16 a b).cy = true ↔ 65536 ≤ a.toNat + b.toNat := decide_eq_true_iff

/-- The sum of two numbers of one sign fits in 16 bits exactly when it keeps that sign; of two signs it always fits. -/
theorem add16_v (a b : Word) :
    (add16 a b).v = true ↔ a.toInt + b.toInt < -32768 ∨ 32767 < a.toInt + b.toInt := by
  have ha := a.isLt
  have hb := b.isLt
  simp only [add16, BitVec.msb_eq_decide, BitVec.toInt_eq_toNat_cond, BitVec.toNat_ofNat]
  by_cases h1 : 32768 ≤ a.toNat <;> by_cases h2 : 32768 ≤ b.toNat <;>
    by_cases h3 : 32768 ≤ (a.toNat + b.toNat) % 65536 <;> simp [h1, h2, h3] <;> omega

/-! ## Decimal adjustment (R162) -/

/-- What DAA adds for the low digit. -/
def lowCorrection (a : Byte) (ac : Bool) : Nat := if 9 < a.toNat % 16 ∨ ac = true then 6 else 0

/-- What DAA adds for the high digit. -/
def highCorrection (a : Byte) (cy : Bool) : Nat := if 0x99 < a.toNat ∨ cy = true then 0x60 else 0

/-- The two corrections share no bit, so that the adjustment byte, built by OR, is their sum. -/
theorem decimalAdjust_r_toNat (a : Byte) (ac cy : Bool) :
    (decimalAdjust a ac cy).r.toNat = (a.toNat + lowCorrection a ac + highCorrection a cy) % 256 := by
  by_cases hl : 9 < a.toNat % 16 ∨ ac = true <;> by_cases hh : 0x99 < a.toNat ∨ cy = true <;>
    simp [decimalAdjust, lowCorrection, highCorrection, hl, hh, Nat.mod_eq_of_lt a.isLt]

theorem decimalAdjust_cy (a : Byte) (ac cy : Bool) :
    (decimalAdjust a ac cy).cy = true ↔ 0x99 < a.toNat ∨ cy = true := by
  simp only [decimalAdjust, Bool.or_eq_true, decide_eq_true_eq]

/-- The high correction has no low digit, so that only the low one can carry out of bit 3. -/
theorem decimalAdjust_ac (a : Byte) (ac cy : Bool) :
    (decimalAdjust a ac cy).ac = true ↔ 16 ≤ a.toNat % 16 + lowCorrection a ac := by
  by_cases hl : 9 < a.toNat % 16 ∨ ac = true <;> by_cases hh : 0x99 < a.toNat ∨ cy = true <;>
    simp [decimalAdjust, lowCorrection, hl, hh] <;> omega

/-! ## The meanings, each as one operation -/

theorem exec_addR (r : Reg) (s : State) : exec (.addR r) s = .next (s.add (s.reg r)) := rfl

theorem exec_adi (v : Byte) (s : State) : exec (.adi v) s = .next (s.add v) := rfl

theorem exec_adcR (r : Reg) (s : State) : exec (.adcR r) s = .next (s.adc (s.reg r)) := rfl

theorem exec_aci (v : Byte) (s : State) : exec (.aci v) s = .next (s.adc v) := rfl

theorem exec_subR (r : Reg) (s : State) : exec (.subR r) s = .next (s.sub (s.reg r)) := rfl

theorem exec_sui (v : Byte) (s : State) : exec (.sui v) s = .next (s.sub v) := rfl

theorem exec_sbbR (r : Reg) (s : State) : exec (.sbbR r) s = .next (s.sbb (s.reg r)) := rfl

theorem exec_sbi (v : Byte) (s : State) : exec (.sbi v) s = .next (s.sbb v) := rfl

theorem exec_addM (h : s.Quiet) : exec .addM s = .next ((s.afterRead (s.pair .hl)).add (s.seen (s.pair .hl))) :=
  congrArg Host.Outcome.next (withM_seen State.add h)

theorem exec_adcM (h : s.Quiet) : exec .adcM s = .next ((s.afterRead (s.pair .hl)).adc (s.seen (s.pair .hl))) :=
  congrArg Host.Outcome.next (withM_seen State.adc h)

theorem exec_subM (h : s.Quiet) : exec .subM s = .next ((s.afterRead (s.pair .hl)).sub (s.seen (s.pair .hl))) :=
  congrArg Host.Outcome.next (withM_seen State.sub h)

theorem exec_sbbM (h : s.Quiet) : exec .sbbM s = .next ((s.afterRead (s.pair .hl)).sbb (s.seen (s.pair .hl))) :=
  congrArg Host.Outcome.next (withM_seen State.sbb h)

theorem exec_inrR (r : Reg) (s : State) : exec (.inrR r) s = .next (s.stepReg r (add8 (s.reg r) 0x01#8 false)) := rfl

theorem exec_dcrR (r : Reg) (s : State) : exec (.dcrR r) s = .next (s.stepReg r (sub8 (s.reg r) 0x01#8 false)) := rfl

theorem exec_inrM (s : State) : exec .inrM s = .next (s.stepM (fun b => add8 b 0x01#8 false)) := rfl

theorem exec_dcrM (s : State) : exec .dcrM s = .next (s.stepM (fun b => sub8 b 0x01#8 false)) := rfl

theorem exec_inx (rp : Pair) (s : State) :
    exec (.inx rp) s = .next ((s.setPair rp (s.pair rp + 1)).setFlags { s.flags with ui := inxUi (s.pair rp + 1) }) := rfl

theorem exec_dcx (rp : Pair) (s : State) :
    exec (.dcx rp) s = .next ((s.setPair rp (s.pair rp - 1)).setFlags { s.flags with ui := dcxUi (s.pair rp - 1) }) := rfl

/-- The open value of UI takes one draw. -/
theorem exec_dad (rp : Pair) (s : State) :
    exec (.dad rp) s = .next (((s.setDraws (s.draws + 1)).setPair .hl (add16 (s.pair .hl) (s.pair rp)).r).setFlags
      { s.flags with
        cy := (add16 (s.pair .hl) (s.pair rp)).cy
        v := (add16 (s.pair .hl) (s.pair rp)).v
        ui := Config.freeBit s.draws }) := rfl

/-- The open values of V and UI take a draw each. -/
theorem exec_daa (s : State) :
    exec .daa s = .next (((s.setDraws (s.draws + 2)).setReg .a (decimalAdjust s.regs.a s.flags.ac s.flags.cy).r).setFlags
      { szp (decimalAdjust s.regs.a s.flags.ac s.flags.cy).r s.flags with
        ac := (decimalAdjust s.regs.a s.flags.ac s.flags.cy).ac
        cy := (decimalAdjust s.regs.a s.flags.ac s.flags.cy).cy
        v := Config.freeBit s.draws
        ui := Config.freeBit (s.draws + 1) }) := rfl

/-! ## The statements -/

/-- Settles O12: each accumulates the 8-bit sum with a register, an immediate or the byte read at HL. -/
theorem additions : Obligations.Additions := by
  intro s
  refine ⟨fun r => ⟨rfl, ?_⟩, fun v => ⟨rfl, ?_⟩, fun r => ⟨rfl, ?_⟩, fun v => ⟨rfl, ?_⟩, rfl, rfl, fun h => ⟨?_, ?_⟩⟩
  · exact accumulates_add rfl (exec_addR r s)
  · exact accumulates_add rfl (exec_adi v s)
  · exact accumulates_adc rfl rfl (exec_adcR r s)
  · exact accumulates_adc rfl rfl (exec_aci v s)
  · exact accumulates_add (s.afterRead_regs _) (exec_addM h)
  · exact accumulates_adc (s.afterRead_regs _) (s.afterRead_flags _) (exec_adcM h)

/-- Settles O13: each accumulates the 8-bit difference with a register, an immediate or the byte read at HL. -/
theorem subtractions : Obligations.Subtractions := by
  intro s
  refine ⟨fun r => ⟨rfl, ?_⟩, fun v => ⟨rfl, ?_⟩, fun r => ⟨rfl, ?_⟩, fun v => ⟨rfl, ?_⟩, rfl, rfl, fun h => ⟨?_, ?_⟩⟩
  · exact accumulates_sub rfl (exec_subR r s)
  · exact accumulates_sub rfl (exec_sui v s)
  · exact accumulates_sbb rfl rfl (exec_sbbR r s)
  · exact accumulates_sbb rfl rfl (exec_sbi v s)
  · exact accumulates_sub (s.afterRead_regs _) (exec_subM h)
  · exact accumulates_sbb (s.afterRead_regs _) (s.afterRead_flags _) (exec_sbbM h)

/-- Settles O14: both are one step of a register, by the sum or the difference with 1. -/
theorem registerSteps : Obligations.RegisterSteps := by
  intro s r
  refine ⟨⟨rfl, ?_⟩, ⟨rfl, ?_⟩⟩
  · exact stepsRegister_of_exec (exec_inrR r s) ((sumBut_flagsKeepingCarry _).2 (add8_sumBut (s.reg r) 0x01#8 false))
  · exact stepsRegister_of_exec (exec_dcrR r s)
      ((differenceBut_flagsKeepingCarry _).2 (sub8_differenceBut (s.reg r) 0x01#8 false))

/-- Settles O15: both are one step of the byte at HL, by the sum or the difference with 1. -/
theorem memorySteps : Obligations.MemorySteps := by
  intro s h
  refine ⟨⟨rfl, ?_⟩, ⟨rfl, ?_⟩⟩
  · exact stepsMemory_of_exec h (exec_inrM s) ((sumBut_flagsKeepingCarry _).2 (add8_sumBut _ 0x01#8 false))
  · exact stepsMemory_of_exec h (exec_dcrM s)
      ((differenceBut_flagsKeepingCarry _).2 (sub8_differenceBut _ 0x01#8 false))

/-- Settles O16: both write the pair and UI, which the result alone decides. -/
theorem pairSteps : Obligations.PairSteps := by
  intro s rp
  rw [← word_add_one_eq_ofNat, ← word_sub_one_eq_ofNat]
  refine ⟨⟨rfl, ?_⟩, ⟨rfl, ?_⟩⟩
  · exact stepsPair_of_exec (exec_inx rp s) (inxUi_iff (s.pair rp))
  · exact stepsPair_of_exec (exec_dcx rp s) (dcxUi_iff (s.pair rp))

/-- Settles O17: DAD is one write of HL with the 16-bit sum, whose CY and V are taken over. -/
theorem doubleAdd : Obligations.DoubleAdd := by
  intro s rp
  refine ⟨rfl, _, exec_dad rp s, ?_, ?_, ?_, rfl, rfl⟩
  · exact pairWritten_setPair_setFlags (s.setDraws (s.draws + 1)) .hl _ _
  · exact add16_cy (s.pair .hl) (s.pair rp)
  · exact add16_v (s.pair .hl) (s.pair rp)

/-- Settles O18: DAA is one write of A with the adjusted byte, whose CY and AC are taken over. -/
theorem decimalAdjust_holds : Obligations.DecimalAdjust := by
  intro s
  refine ⟨rfl, _, exec_daa s, ?_, ?_, ?_, ?_, ?_, rfl⟩
  · exact decimalAdjust_r_toNat s.regs.a s.flags.ac s.flags.cy
  · exact resultFlags_of rfl rfl rfl
  · exact decimalAdjust_cy s.regs.a s.flags.ac s.flags.cy
  · exact decimalAdjust_ac s.regs.a s.flags.ac s.flags.cy
  · exact regWritten_setReg (s.setDraws (s.draws + 2)) .a _

end Sys2Proof.Machine
end

section
/-! PROOFS. The logical, compare, rotate and carry instructions (42_logical.md): what a logical result, a compare and a rotate
leave of the whole state, the outcome of a compare and the rotated byte as numbers, and each instruction as one of these. -/

namespace Sys2Proof.Machine

variable {s u : State}

/-! ## Logical results (R170) -/

/-- The instruction writes `r` to A, S, Z, P of it, CY cleared and AC as given, on the state `u` that its read of memory
left. -/
def GivesLogical (s : State) (i : Instr) (u : State) (r : Byte) (ac : Bool) : Prop :=
  ∃ t, exec i s = .next t ∧ RegWritten s t .a r ∧ ResultFlags r t.flags ∧ t.flags.cy = false ∧ t.flags.ac = ac ∧
    OnlyRegsAndFlags u t

/-- The open values of V and UI take a draw each. -/
theorem setLogic_eq (s : State) (r : Byte) (ac : Bool) :
    s.setLogic r ac = ((s.setDraws (s.draws + 2)).setReg .a r).setFlags
      (logicFlags r ac (Config.freeBit s.draws) (Config.freeBit (s.draws + 1))) := rfl

theorem resultFlags_logicFlags (r : Byte) (ac v ui : Bool) : ResultFlags r (logicFlags r ac v ui) :=
  resultFlags_of rfl rfl rfl

theorem givesLogical_of_exec {i : Instr} {r : Byte} {ac : Bool} (hu : u.regs = s.regs)
    (hi : exec i s = .next (u.setLogic r ac)) : GivesLogical s i u r ac := by
  rw [setLogic_eq] at hi
  refine ⟨_, hi, ?_, resultFlags_logicFlags r ac _ _, rfl, rfl, rfl⟩
  exact (regWritten_setReg (u.setDraws (u.draws + 2)) .a r).of_regs hu

/-! ## Compares (R180) -/

/-- The instruction writes the seven flags of the subtraction of `b` from A and nothing else, on the state `u` that its read
of memory left; Z, CY and UI say how A and `b` compare. -/
def ComparesWith (s : State) (i : Instr) (u : State) (b : Byte) : Prop :=
  ∃ t r, exec i s = .next t ∧ DifferenceOf s.regs.a b 0 r t.flags ∧ (t.flags.z = true ↔ s.regs.a = b) ∧
    (t.flags.cy = true ↔ s.regs.a.toNat < b.toNat) ∧ (t.flags.ui = true ↔ s.regs.a.toInt < b.toInt) ∧
    t = u.setFlags t.flags

section Outcome

variable {a b r : Byte} {f : Flags}

/-- Two bytes are less than 256 apart, so that their difference is 0 modulo 256 only where they are equal. -/
theorem DifferenceOf.z_iff_eq (h : DifferenceOf a b 0 r f) : f.z = true ↔ a = b := by
  obtain ⟨⟨hr, ⟨-, hz, -⟩, -⟩, -⟩ := h
  have ha := a.isLt
  have hb := b.isLt
  rw [hz, ← BitVec.toNat_inj]
  omega

theorem DifferenceOf.cy_iff_lt (h : DifferenceOf a b 0 r f) : f.cy = true ↔ a.toNat < b.toNat := h.2

/-- UI is the sign of the exact difference, also where the difference does not fit in a byte. -/
theorem DifferenceOf.ui_iff_toInt_lt (h : DifferenceOf a b 0 r f) : f.ui = true ↔ a.toInt < b.toInt := by
  obtain ⟨⟨-, -, -, -, hui⟩, -⟩ := h
  rw [hui]
  omega

end Outcome

theorem comparesWith_of_exec {i : Instr} {b : Byte} (hu : u.regs = s.regs) (hi : exec i s = .next (u.compare b)) :
    ComparesWith s i u b := by
  have h : DifferenceOf s.regs.a b 0 (sub8 u.regs.a b false).r (u.compare b).flags :=
    hu ▸ sub8_differenceOf u.regs.a b false
  exact ⟨_, _, hi, h, h.z_iff_eq, h.cy_iff_lt, h.ui_iff_toInt_lt, rfl⟩

/-! ## Rotates and writes of CY (R183 to R186, R188, R189) -/

/-- The instruction writes A and CY, given as numbers, and leaves V and UI open. -/
def GivesCarry (s : State) (i : Instr) (result out : Nat) : Prop :=
  ∃ t, exec i s = .next t ∧ t.regs.a.toNat = result ∧ t.flags.cy.toNat = out ∧
    t.flags = { s.flags with cy := t.flags.cy, v := t.flags.v, ui := t.flags.ui } ∧ RegWritten s t .a t.regs.a ∧
    OnlyRegsAndFlags s t

/-- The open values of V and UI take a draw each. -/
theorem setRotate_eq (s : State) (r : Byte) (out : Bool) :
    s.setRotate r out = ((s.setDraws (s.draws + 2)).setReg .a r).setFlags
      { s.flags with cy := out, v := Config.freeBit s.draws, ui := Config.freeBit (s.draws + 1) } := rfl

/-- A write of CY alone is a rotate that gives A back. -/
theorem setCarryOnly_eq_setRotate (s : State) (cy : Bool) : s.setCarryOnly cy = s.setRotate s.regs.a cy := rfl

theorem givesCarry_of_exec {i : Instr} {r : Byte} {out : Bool} {result n : Nat}
    (hi : exec i s = .next (s.setRotate r out)) (hr : r.toNat = result) (hout : out.toNat = n) :
    GivesCarry s i result n := by
  rw [setRotate_eq] at hi
  exact ⟨_, hi, hr, hout, rfl, regWritten_setReg (s.setDraws (s.draws + 2)) .a r, rfl⟩

/-- The low seven bits moved up, with `c` below them. -/
def shiftLeftIn (a : Byte) (c : Bool) : Byte := a.extractLsb' 0 7 ++ BitVec.ofBool c

/-- The high seven bits moved down, with `c` above them. -/
def shiftRightIn (c : Bool) (a : Byte) : Byte := BitVec.ofBool c ++ a.extractLsb' 1 7

theorem shiftLeftIn_toNat (a : Byte) (c : Bool) : (shiftLeftIn a c).toNat = 2 * a.toNat % 256 + c.toNat := by
  have hlow : (a.extractLsb' 0 7).toNat = a.toNat % 128 := by
    rw [BitVec.extractLsb'_toNat, Nat.shiftRight_zero]
  rw [shiftLeftIn, BitVec.toNat_append, BitVec.toNat_ofBool, ← Nat.shiftLeft_add_eq_or_of_lt c.toNat_lt, hlow,
    Nat.shiftLeft_eq]
  omega

theorem shiftRightIn_toNat (a : Byte) (c : Bool) : (shiftRightIn c a).toNat = 128 * c.toNat + a.toNat / 2 := by
  have ha := a.isLt
  have hlow : (a.extractLsb' 1 7).toNat = a.toNat / 2 := by
    rw [BitVec.extractLsb'_toNat, Nat.shiftRight_eq_div_pow]
    omega
  rw [shiftRightIn, BitVec.toNat_append, BitVec.toNat_ofBool, ← Nat.shiftLeft_add_eq_or_of_lt (BitVec.isLt _), hlow,
    Nat.shiftLeft_eq]
  omega

/-- Bit 7, which a rotate to the left moves out. -/
theorem bit_seven_toNat (a : Byte) : (a.getLsbD 7).toNat = a.toNat / 128 := by
  have ha := a.isLt
  rw [BitVec.getLsbD, Nat.toNat_testBit]
  omega

/-- Bit 0, which a rotate to the right moves out. -/
theorem bit_zero_toNat (a : Byte) : (a.getLsbD 0).toNat = a.toNat % 2 := by
  rw [BitVec.getLsbD, Nat.toNat_testBit, pow_zero, Nat.div_one]

theorem bool_not_toNat (c : Bool) : (!c).toNat = 1 - c.toNat := by cases c <;> rfl

/-! ## The meanings, each as one operation -/

theorem exec_anaR (r : Reg) (s : State) : exec (.anaR r) s = .next (s.setLogic (s.regs.a &&& s.reg r) true) := rfl

theorem exec_ani (v : Byte) (s : State) : exec (.ani v) s = .next (s.setLogic (s.regs.a &&& v) true) := rfl

theorem exec_xraR (r : Reg) (s : State) : exec (.xraR r) s = .next (s.setLogic (s.regs.a ^^^ s.reg r) false) := rfl

theorem exec_xri (v : Byte) (s : State) : exec (.xri v) s = .next (s.setLogic (s.regs.a ^^^ v) false) := rfl

theorem exec_oraR (r : Reg) (s : State) : exec (.oraR r) s = .next (s.setLogic (s.regs.a ||| s.reg r) false) := rfl

theorem exec_ori (v : Byte) (s : State) : exec (.ori v) s = .next (s.setLogic (s.regs.a ||| v) false) := rfl

theorem exec_anaM (h : s.Quiet) :
    exec .anaM s = .next ((s.afterRead (s.pair .hl)).setLogic (s.regs.a &&& s.seen (s.pair .hl)) true) :=
  congrArg Host.Outcome.next (withM_seen State.and h)

theorem exec_xraM (h : s.Quiet) :
    exec .xraM s = .next ((s.afterRead (s.pair .hl)).setLogic (s.regs.a ^^^ s.seen (s.pair .hl)) false) :=
  congrArg Host.Outcome.next (withM_seen State.xor h)

theorem exec_oraM (h : s.Quiet) :
    exec .oraM s = .next ((s.afterRead (s.pair .hl)).setLogic (s.regs.a ||| s.seen (s.pair .hl)) false) :=
  congrArg Host.Outcome.next (withM_seen State.or h)

theorem exec_cmpR (r : Reg) (s : State) : exec (.cmpR r) s = .next (s.compare (s.reg r)) := rfl

theorem exec_cpi (v : Byte) (s : State) : exec (.cpi v) s = .next (s.compare v) := rfl

theorem exec_cmpM (h : s.Quiet) : exec .cmpM s = .next ((s.afterRead (s.pair .hl)).compare (s.seen (s.pair .hl))) :=
  congrArg Host.Outcome.next (withM_seen State.compare h)

theorem exec_rlc (s : State) :
    exec .rlc s = .next (s.setRotate (shiftLeftIn s.regs.a (s.regs.a.getLsbD 7)) (s.regs.a.getLsbD 7)) := rfl

theorem exec_rrc (s : State) :
    exec .rrc s = .next (s.setRotate (shiftRightIn (s.regs.a.getLsbD 0) s.regs.a) (s.regs.a.getLsbD 0)) := rfl

theorem exec_ral (s : State) :
    exec .ral s = .next (s.setRotate (shiftLeftIn s.regs.a s.flags.cy) (s.regs.a.getLsbD 7)) := rfl

theorem exec_rar (s : State) :
    exec .rar s = .next (s.setRotate (shiftRightIn s.flags.cy s.regs.a) (s.regs.a.getLsbD 0)) := rfl

theorem exec_cma (s : State) : exec .cma s = .next (s.setReg .a (~~~s.regs.a)) := rfl

theorem exec_cmc (s : State) : exec .cmc s = .next (s.setRotate s.regs.a (!s.flags.cy)) :=
  congrArg Host.Outcome.next (setCarryOnly_eq_setRotate s _)

theorem exec_stc (s : State) : exec .stc s = .next (s.setRotate s.regs.a true) :=
  congrArg Host.Outcome.next (setCarryOnly_eq_setRotate s _)

/-! ## The statements -/

/-- Settles O20: each writes one logical result, of A and a register, an immediate or the byte read at HL. -/
theorem logicalOperations : Obligations.LogicalOperations := by
  intro s
  refine ⟨fun r => ⟨rfl, ?_⟩, fun v => ⟨rfl, ?_⟩, fun r => ⟨rfl, ?_⟩, fun v => ⟨rfl, ?_⟩, fun r => ⟨rfl, ?_⟩,
    fun v => ⟨rfl, ?_⟩, rfl, rfl, rfl, fun h => ⟨?_, ?_, ?_⟩⟩
  · exact givesLogical_of_exec rfl (exec_anaR r s)
  · exact givesLogical_of_exec rfl (exec_ani v s)
  · exact givesLogical_of_exec rfl (exec_xraR r s)
  · exact givesLogical_of_exec rfl (exec_xri v s)
  · exact givesLogical_of_exec rfl (exec_oraR r s)
  · exact givesLogical_of_exec rfl (exec_ori v s)
  · exact givesLogical_of_exec (s.afterRead_regs _) (exec_anaM h)
  · exact givesLogical_of_exec (s.afterRead_regs _) (exec_xraM h)
  · exact givesLogical_of_exec (s.afterRead_regs _) (exec_oraM h)

/-- Settles O21: each is one compare of A with a register, an immediate or the byte read at HL. -/
theorem compares : Obligations.Compares := by
  intro s
  refine ⟨fun r => ⟨rfl, ?_⟩, fun v => ⟨rfl, ?_⟩, rfl, fun h => ?_⟩
  · exact comparesWith_of_exec rfl (exec_cmpR r s)
  · exact comparesWith_of_exec rfl (exec_cpi v s)
  · exact comparesWith_of_exec (s.afterRead_regs _) (exec_cmpM h)

/-- Settles O22: a rotate shifts a bit in, the old one at the other end or CY; CMC and STC write CY alone; CMA writes A. -/
theorem rotatesAndCarry : Obligations.RotatesAndCarry := by
  intro s
  have hhigh : (s.regs.a.getLsbD 7).toNat = s.regs.a.toNat / 128 := bit_seven_toNat s.regs.a
  have hlow : (s.regs.a.getLsbD 0).toNat = s.regs.a.toNat % 2 := bit_zero_toNat s.regs.a
  refine ⟨⟨rfl, ?_⟩, ⟨rfl, ?_⟩, ⟨rfl, ?_⟩, ⟨rfl, ?_⟩, ⟨rfl, _, exec_cma s, ?_, ?_, ?_⟩, ⟨rfl, ?_⟩, ⟨rfl, ?_⟩⟩
  · exact givesCarry_of_exec (exec_rlc s) (hhigh ▸ shiftLeftIn_toNat s.regs.a _) hhigh
  · exact givesCarry_of_exec (exec_rrc s) (hlow ▸ shiftRightIn_toNat s.regs.a _) hlow
  · exact givesCarry_of_exec (exec_ral s) (shiftLeftIn_toNat s.regs.a _) hhigh
  · exact givesCarry_of_exec (exec_rar s) (shiftRightIn_toNat s.regs.a _) hlow
  · exact byte_not_toNat s.regs.a
  · exact regWritten_setReg s .a _
  · exact onlyRegs_setReg s .a _
  · exact givesCarry_of_exec (exec_cmc s) rfl (bool_not_toNat s.flags.cy)
  · exact givesCarry_of_exec (exec_stc s) rfl rfl

end Sys2Proof.Machine
end

section
/-! PROOFS. The branch instructions (43_branch.md; 45_extended.md R273, R274, R279): what the rows of the three tables of
conditional instructions say, what fetching a three-byte instruction leaves, and each instruction as one jump, call or
return. -/

namespace Sys2Proof.Machine

variable {s : State} {branch : State → Cond → Word → State} {x : Byte × (Word → Instr) × (Flags → Bool)} {cond : Cond}
  {w : Word}

/-! ## The rows of the tables (30_encoding.md R94) -/

/-- A row of a table of conditional jumps or calls stands for the three-byte instruction that does `branch` on `cond`, and
`cond` also decides whether its third byte is read (R202, R212). -/
structure BranchRow (branch : State → Cond → Word → State) (x : Byte × (Word → Instr) × (Flags → Bool)) (cond : Cond) :
    Prop where
  encode_eq : ∀ w, encode (x.2.1 w) = [x.1, loByte w, hiByte w]
  decode_eq : ∀ b1 b2, decodeWith x.1 b1 b2 = x.2.1 (ofBytes b2 b1)
  length_eq : opcodeLength x.1 = 3
  third_eq : thirdByteCond x.1 = some cond
  exec_eq : ∀ w s, exec (x.2.1 w) s = .next (branch s cond w)
  holds_eq : ∀ f, x.2.2 f = cond.holds f

theorem branchRow_of_mem_conditionalJumps : ∀ x ∈ conditionalJumps, ∃ cond, BranchRow State.jumpIf x cond := by
  simp only [conditionalJumps, List.forall_mem_cons]
  refine ⟨⟨.nz, ?_⟩, ⟨.z, ?_⟩, ⟨.nc, ?_⟩, ⟨.c, ?_⟩, ⟨.po, ?_⟩, ⟨.pe, ?_⟩, ⟨.p, ?_⟩, ⟨.m, ?_⟩, ⟨.nui, ?_⟩, ⟨.ui, ?_⟩,
    List.forall_mem_nil _⟩
  all_goals exact ⟨fun _ => rfl, fun _ _ => rfl, by decide, by decide, fun _ _ => rfl, fun _ => rfl⟩

theorem branchRow_of_mem_conditionalCalls : ∀ x ∈ conditionalCalls, ∃ cond, BranchRow State.callIf x cond := by
  simp only [conditionalCalls, List.forall_mem_cons]
  refine ⟨⟨.nz, ?_⟩, ⟨.z, ?_⟩, ⟨.nc, ?_⟩, ⟨.c, ?_⟩, ⟨.po, ?_⟩, ⟨.pe, ?_⟩, ⟨.p, ?_⟩, ⟨.m, ?_⟩, List.forall_mem_nil _⟩
  all_goals exact ⟨fun _ => rfl, fun _ _ => rfl, by decide, by decide, fun _ _ => rfl, fun _ => rfl⟩

/-- A row of the table of conditional returns stands for the one-byte instruction that returns on `cond` (R222). -/
structure ReturnRow (x : Byte × Instr × (Flags → Bool)) (cond : Cond) : Prop where
  encode_eq : encode x.2.1 = [x.1]
  exec_eq : ∀ s, exec x.2.1 s = .next (s.returnIf cond)
  holds_eq : ∀ f, x.2.2 f = cond.holds f

theorem returnRow_of_mem_conditionalReturns : ∀ x ∈ conditionalReturns, ∃ cond, ReturnRow x cond := by
  simp only [conditionalReturns, List.forall_mem_cons]
  refine ⟨⟨.nz, ?_⟩, ⟨.z, ?_⟩, ⟨.nc, ?_⟩, ⟨.c, ?_⟩, ⟨.po, ?_⟩, ⟨.pe, ?_⟩, ⟨.p, ?_⟩, ⟨.m, ?_⟩, List.forall_mem_nil _⟩
  all_goals exact ⟨rfl, fun _ => rfl, fun _ => rfl⟩

/-! ## Fetching a three-byte instruction (20_memory.md R68) -/

/-- The first two bytes of the instruction at pc, read from RAM or ROM where nobody disturbs it. -/
structure FirstTwoBytes (s : State) (opcode low : Byte) : Prop where
  quiet : s.Quiet
  populated_first : s.Populated s.pc
  populated_second : s.Populated (s.pc + 1)
  first_eq : s.peek s.pc = opcode
  second_eq : s.peek (s.pc + 1) = low

/-- The state in which the third byte of the instruction at pc is read or stepped over. -/
def State.atThirdByte (s : State) (opcode low : Byte) : State :=
  (s.setPc (s.pc + 2)).setBus (.memoryRead (s.pc + 1) low :: .opcodeFetch s.pc opcode :: s.bus)

theorem word_add_one_add_one (a : Word) : a + 1 + 1 = a + 2 := by bv_omega

theorem word_add_two_add_one (a : Word) : a + 2 + 1 = a + 3 := by bv_omega

theorem fetchInstr_of_length_three {opcode low : Byte} (h : FirstTwoBytes s opcode low) (hl : opcodeLength opcode = 3) :
    s.fetchInstr = (decodeWith opcode low ((s.atThirdByte opcode low).fetchThird opcode).1,
      ((s.atThirdByte opcode low).fetchThird opcode).2) := by
  obtain ⟨hq, hp, hp', rfl, rfl⟩ := h
  have second : ((s.setBus (.opcodeFetch s.pc (s.peek s.pc) :: s.bus)).setPc (s.pc + 1)).fetchByte .memoryRead =
      (s.peek (s.pc + 1), s.atThirdByte (s.peek s.pc) (s.peek (s.pc + 1))) := by
    rw [State.atThirdByte, ← word_add_one_add_one]
    exact fetchByte_quiet (s := (s.setBus _).setPc (s.pc + 1)) _ hq hp'
  simp only [State.fetchInstr, fetchByte_quiet _ hq hp, hl, second]

theorem fetchThird_taken {opcode : Byte} (hc : thirdByteCond opcode = some cond) (ht : cond.holds s.flags = true) :
    s.fetchThird opcode = s.fetchByte .memoryRead := by
  simp only [State.fetchThird, hc, ht, if_true]

theorem fetchThird_untaken {opcode : Byte} (hc : thirdByteCond opcode = some cond) (ht : cond.holds s.flags = false) :
    s.fetchThird opcode = (s.peek s.pc, s.setPc (s.pc + 1)) := by
  simp only [State.fetchThird, hc, ht, Bool.false_eq_true, if_false]

/-- The state after the fetch of three bytes whose third was stepped over. -/
def State.afterTwoRead (s : State) (opcode low : Byte) : State := (s.atThirdByte opcode low).setPc (s.pc + 3)

/-- The state after the fetch of three bytes, all read. -/
def State.afterThreeRead (s : State) (opcode low high : Byte) : State :=
  (s.afterTwoRead opcode low).setBus (.memoryRead (s.pc + 2) high :: (s.atThirdByte opcode low).bus)

@[simp] theorem State.afterTwoRead_flags (s : State) (opcode low : Byte) :
    (s.afterTwoRead opcode low).flags = s.flags := rfl

@[simp] theorem State.afterThreeRead_flags (s : State) (opcode low high : Byte) :
    (s.afterThreeRead opcode low high).flags = s.flags := rfl

theorem quiet_afterTwoRead {opcode low : Byte} (h : s.Quiet) : (s.afterTwoRead opcode low).Quiet := h

theorem quiet_afterThreeRead_setPc {opcode low high : Byte} (a : Word) (h : s.Quiet) :
    ((s.afterThreeRead opcode low high).setPc a).Quiet := h

theorem afterTwoRead_eq (s : State) (opcode low : Byte) : s.afterTwoRead opcode low =
    (s.setPc (s.pc + 3)).setBus ([.memoryRead (s.pc + 1) low, .opcodeFetch s.pc opcode] ++ s.bus) := rfl

theorem afterThreeRead_setPc (s : State) (opcode low high : Byte) (a : Word) :
    (s.afterThreeRead opcode low high).setPc a = (s.setPc a).setBus
      (.memoryRead (s.pc + 2) high :: ([.memoryRead (s.pc + 1) low, .opcodeFetch s.pc opcode] ++ s.bus)) := rfl

theorem fetchThird_atThirdByte_taken {opcode low : Byte} (hc : thirdByteCond opcode = some cond)
    (ht : cond.holds s.flags = true) (hq : s.Quiet) (hp : s.Populated (s.pc + 2)) :
    (s.atThirdByte opcode low).fetchThird opcode =
      (s.peek (s.pc + 2), s.afterThreeRead opcode low (s.peek (s.pc + 2))) := by
  rw [fetchThird_taken (s := s.atThirdByte opcode low) hc ht, State.afterThreeRead, State.afterTwoRead,
    ← word_add_two_add_one]
  exact fetchByte_quiet (s := s.atThirdByte opcode low) _ hq hp

theorem fetchThird_atThirdByte_untaken {opcode low : Byte} (hc : thirdByteCond opcode = some cond)
    (ht : cond.holds s.flags = false) :
    (s.atThirdByte opcode low).fetchThird opcode = (s.peek (s.pc + 2), s.afterTwoRead opcode low) := by
  rw [State.afterTwoRead, ← word_add_two_add_one]
  exact fetchThird_untaken (s := s.atThirdByte opcode low) hc ht

/-- On a true condition the instruction has the whole operand. -/
theorem BranchRow.fetchInstr_taken (row : BranchRow branch x cond) (h : FirstTwoBytes s x.1 (loByte w))
    (ht : x.2.2 s.flags = true) (hp : s.Populated (s.pc + 2)) (hw : s.peek (s.pc + 2) = hiByte w) :
    s.fetchInstr = (x.2.1 w, s.afterThreeRead x.1 (loByte w) (hiByte w)) := by
  rw [row.holds_eq] at ht
  rw [fetchInstr_of_length_three h row.length_eq, fetchThird_atThirdByte_taken row.third_eq ht h.quiet hp, hw,
    row.decode_eq, ofBytes_hiByte_loByte]

/-- On a false condition, what stands unread behind the first two bytes reaches the operand only. -/
theorem BranchRow.fetchInstr_untaken (row : BranchRow branch x cond) (h : FirstTwoBytes s x.1 (loByte w))
    (ht : x.2.2 s.flags = false) :
    s.fetchInstr = (x.2.1 (ofBytes (s.peek (s.pc + 2)) (loByte w)), s.afterTwoRead x.1 (loByte w)) := by
  rw [row.holds_eq] at ht
  rw [fetchInstr_of_length_three h row.length_eq, fetchThird_atThirdByte_untaken row.third_eq ht, row.decode_eq]

/-! ## The step of a conditional jump or call -/

/-- A step is the instruction fetched and executed, where nothing cuts it. -/
theorem step_of_fetchInstr {i : Instr} {v t : State} (he : s.Executes) (hf : s.atFetch.fetchInstr = (i, v))
    (hx : exec i v = .next t) (ht : t.Quiet) : step s = .next t := by
  obtain ⟨-, hwhole, hsus⟩ := ht
  rw [step_run (boundary_executes he), State.perform, hf, hx, settle_whole hwhole hsus]

theorem jumpIf_taken (w : Word) (h : cond.holds s.flags = true) : s.jumpIf cond w = s.setPc w := if_pos h

theorem jumpIf_untaken (w : Word) (h : cond.holds s.flags = false) : s.jumpIf cond w = s := by
  simp only [State.jumpIf, h, Bool.false_eq_true, if_false]

theorem step_jump_taken (row : BranchRow State.jumpIf x cond) (he : s.Executes)
    (h : FirstTwoBytes s.atFetch x.1 (loByte w)) (ht : x.2.2 s.atFetch.flags = true)
    (hp : s.atFetch.Populated (s.atFetch.pc + 2)) (hw : s.atFetch.peek (s.atFetch.pc + 2) = hiByte w) :
    step s = .next ((s.atFetch.afterThreeRead x.1 (loByte w) (hiByte w)).setPc w) := by
  refine step_of_fetchInstr he (row.fetchInstr_taken h ht hp hw) ?_ (quiet_afterThreeRead_setPc w h.quiet)
  rw [row.holds_eq, ← State.afterThreeRead_flags _ x.1 (loByte w) (hiByte w)] at ht
  rw [row.exec_eq, jumpIf_taken w ht]

/-- Not taken, a jump and a call leave the state that their fetch left. -/
theorem step_branch_untaken (row : BranchRow branch x cond)
    (hkeep : ∀ {v : State} (a : Word), cond.holds v.flags = false → branch v cond a = v) (he : s.Executes)
    (h : FirstTwoBytes s.atFetch x.1 (loByte w)) (ht : x.2.2 s.atFetch.flags = false) :
    step s = .next (s.atFetch.afterTwoRead x.1 (loByte w)) := by
  refine step_of_fetchInstr he (row.fetchInstr_untaken h ht) ?_ (quiet_afterTwoRead h.quiet)
  rw [row.holds_eq, ← State.afterTwoRead_flags _ x.1 (loByte w)] at ht
  rw [row.exec_eq, hkeep _ ht]

/-! ## Calls and returns -/

/-- The instruction pushes pc, goes to `target` and does nothing else. -/
def CallsTo (s : State) (i : Instr) (target : Word) : Prop :=
  ∃ t, exec i s = .next t ∧ Pushed s t s.pc ∧ t.pc = target ∧ OnlyStackAndPc s t

theorem callsTo_of_exec {i : Instr} {target : Word} (h : s.Quiet) (hi : exec i s = .next (s.callTo target)) :
    CallsTo s i target :=
  ⟨_, hi, callTo_pushed target h, rfl, callTo_whole target h⟩

/-- A return reads its address and moves SP only where its condition is true. -/
theorem returnIf_seen (cond : Cond) (h : s.Quiet) :
    s.returnIf cond = if cond.holds s.flags = true then s.afterPop.setPc (s.seen16 s.sp) else s := by
  rw [State.returnIf, popPc_seen h]

/-! ## The meanings, each as one operation -/

theorem exec_jmp (w : Word) (s : State) : exec (.jmp w) s = .next (s.setPc w) := rfl

theorem exec_pchl (s : State) : exec .pchl s = .next (s.setPc (s.pair .hl)) := rfl

theorem exec_call (w : Word) (s : State) : exec (.call w) s = .next (s.callTo w) := rfl

theorem exec_ret (h : s.Quiet) : exec .ret s = .next (s.afterPop.setPc (s.seen16 s.sp)) :=
  congrArg Host.Outcome.next (popPc_seen h)

theorem exec_rst (n : Nat) (s : State) : exec (.rst n) s = .next (s.callTo (BitVec.ofNat 16 (8 * n))) := rfl

theorem exec_rstv_set (h : s.flags.v = true) : exec .rstv s = .next (s.callTo 0x0040#16) :=
  congrArg Host.Outcome.next (if_pos h)

theorem exec_rstv_clear (h : s.flags.v = false) : exec .rstv s = .next s :=
  congrArg Host.Outcome.next (if_neg (Bool.eq_false_iff.1 h))

theorem encode_rst (n : BitVec 3) : encode (.rst n.toNat) = [0b11#2 ++ n ++ 0b111#3] := by
  simp only [encode, BitVec.ofNat_toNat, BitVec.setWidth_eq]

/-! ## The statements -/

/-- Settles O25: the condition of the row decides the fetch of the third byte and the branch alike. -/
theorem conditionalSteps : Obligations.ConditionalSteps := by
  intro s w
  refine ⟨fun x hx => ?_, fun x hx ⟨he, hq, hp, hp', hop, hlo⟩ ht => ?_⟩
  · obtain ⟨cond, row⟩ := branchRow_of_mem_conditionalJumps x hx
    refine ⟨row.encode_eq w, fun ⟨he, hq, hp, hp', hop, hlo⟩ ht hpop hhi => ?_⟩
    rw [← afterThreeRead_setPc]
    exact step_jump_taken row he ⟨hq, hp, hp', hop, hlo⟩ ht hpop hhi
  · rw [← afterTwoRead_eq]
    rcases List.mem_append.1 hx with hx | hx
    · obtain ⟨cond, row⟩ := branchRow_of_mem_conditionalJumps x hx
      exact step_branch_untaken row jumpIf_untaken he ⟨hq, hp, hp', hop, hlo⟩ ht
    · obtain ⟨cond, row⟩ := branchRow_of_mem_conditionalCalls x hx
      exact step_branch_untaken row callIf_untaken he ⟨hq, hp, hp', hop, hlo⟩ ht

/-- Settles O26: CALL is a call; a conditional call is one where the condition of its row is true. -/
theorem calls : Obligations.Calls := by
  intro s w h
  refine ⟨rfl, callsTo_of_exec h (exec_call w s), fun x hx => ?_⟩
  obtain ⟨cond, row⟩ := branchRow_of_mem_conditionalCalls x hx
  refine ⟨row.encode_eq w, fun ht => callsTo_of_exec h ?_, fun ht => ?_⟩
  · rw [row.exec_eq, callIf_taken w (row.holds_eq s.flags ▸ ht)]
  · rw [row.exec_eq, callIf_untaken w (row.holds_eq s.flags ▸ ht)]

/-- Settles O27: RET is a return; a conditional return is one where the condition of its row is true. -/
theorem returns : Obligations.Returns := by
  intro s h
  refine ⟨rfl, exec_ret h, fun x hx => ?_⟩
  obtain ⟨cond, row⟩ := returnRow_of_mem_conditionalReturns x hx
  exact ⟨row.encode_eq, by rw [row.exec_eq, returnIf_seen cond h, row.holds_eq]⟩

/-- Settles O28: both are calls, RST n to 8 times n and RSTV to 0040H where V is set. -/
theorem restarts : Obligations.Restarts := by
  intro s h
  refine ⟨fun n => ⟨encode_rst n, ?_⟩, rfl, fun hv => ?_, exec_rstv_clear⟩
  · exact callsTo_of_exec h (exec_rst n.toNat s)
  · exact callsTo_of_exec h (exec_rstv_set hv)

/-- Settles O24: each writes pc and nothing else; a conditional jump not taken writes back what pc held. -/
theorem jumps : Obligations.Jumps := by
  intro s w
  refine ⟨⟨rfl, exec_jmp w s⟩, ⟨rfl, exec_pchl s⟩, fun x hx => ?_⟩
  obtain ⟨cond, row⟩ := branchRow_of_mem_conditionalJumps x hx
  rw [row.exec_eq, jumpIf_eq, row.holds_eq]

end Sys2Proof.Machine
end

section
/-! PROOFS. The stack, input/output and machine control instructions (44_stack_io_control.md): bytes put together from bits,
what a push, a port cycle and the exchange of the stack top leave of the whole state, what SIM writes of the control state, and
each instruction as one of these. -/

namespace Sys2Proof.Machine

variable {s t u : State}

/-! ## Bytes put together from bits (10_state.md R28, R42) -/

/-- One more bit below the bits of a word is one more element before the list of them. -/
theorem getLsbD_append_ofBool {n : Nat} {x : BitVec n} {l : List Bool} (h : ∀ k, x.getLsbD k = l.getD k false) (b : Bool)
    (k : Nat) : (x ++ BitVec.ofBool b).getLsbD k = (b :: l).getD k false := by
  cases k with
  | zero => rw [BitVec.getLsbD_append]; simp
  | succ k => simpa [BitVec.getLsbD_append] using h k

/-- The bits of a byte written out from bit 7 down, listed from bit 0 up. -/
theorem rimByte_getLsbD (b7 b6 b5 b4 b3 b2 b1 b0 : Bool) (k : Nat) :
    (rimByte b7 b6 b5 b4 b3 b2 b1 b0).getLsbD k = [b0, b1, b2, b3, b4, b5, b6, b7].getD k false := by
  have top (k : Nat) : (BitVec.ofBool b7).getLsbD k = [b7].getD k false := by cases k <;> simp
  have six := getLsbD_append_ofBool (getLsbD_append_ofBool (getLsbD_append_ofBool top b6) b5) b4
  have two := getLsbD_append_ofBool (getLsbD_append_ofBool (getLsbD_append_ofBool six b3) b2) b1
  exact getLsbD_append_ofBool two b0 k

/-- The flag byte is laid out as the byte of RIM is, with bit 3 held at 0. -/
theorem toByte_eq_rimByte (f : Flags) : f.toByte = rimByte f.s f.z f.ui f.ac false f.p f.v f.cy := rfl

theorem toByte_getLsbD (f : Flags) (k : Nat) :
    f.toByte.getLsbD k = [f.cy, f.v, f.p, false, f.ac, f.ui, f.z, f.s].getD k false := by
  rw [toByte_eq_rimByte, rimByte_getLsbD]

/-! ## A push and a pop of a word -/

theorem onlyStackAndPc_push16 (v : Word) (h : s.Quiet) : OnlyStackAndPc s (s.push16 v) := by
  obtain ⟨m, b, he⟩ : ∃ m b, s.push16 v = ((s.setMem m).setSp (s.sp - 2)).setBus b := ⟨_, _, push16_whole v h⟩
  rw [he]
  rfl

/-- The instruction pushes the word `v` and does nothing else. -/
def PushesWord (s : State) (i : Instr) (v : Word) : Prop :=
  ∃ t, exec i s = .next t ∧ Pushed s t v ∧ OnlyStackAndPc s t ∧ t.pc = s.pc

theorem pushesWord_of_exec {i : Instr} {v : Word} (h : s.Quiet) (hi : exec i s = .next (s.push16 v)) : PushesWord s i v :=
  ⟨_, hi, push16_pushed v h, onlyStackAndPc_push16 v h, s.push16_pc v⟩

@[simp] theorem hiByte_seen16 (s : State) (a : Word) : hiByte (s.seen16 a) = (s.afterRead a).seen (a + 1) := hiByte_ofBytes ..

@[simp] theorem loByte_seen16 (s : State) (a : Word) : loByte (s.seen16 a) = s.seen a := loByte_ofBytes ..

/-! ## The exchange of HL with the stack top (R244) -/

/-- After the two reads and the two writes, with HL not yet loaded. -/
def State.afterSwap (s : State) : State := ((s.afterRead16 s.sp).memWrite (s.sp + 1) s.regs.h).memWrite s.sp s.regs.l

@[simp] theorem State.afterSwap_regs (s : State) : s.afterSwap.regs = s.regs := by
  rw [State.afterSwap, State.memWrite_regs, State.memWrite_regs]
  rfl

@[simp] theorem State.afterSwap_sp (s : State) : s.afterSwap.sp = s.sp := by
  rw [State.afterSwap, State.memWrite_sp, State.memWrite_sp]
  rfl

theorem afterSwap_bus (h : s.Quiet) : s.afterSwap.bus =
    .memoryWrite s.sp s.regs.l :: .memoryWrite (s.sp + 1) s.regs.h :: (s.afterRead16 s.sp).bus := by
  have h' : (s.afterRead16 s.sp).Quiet := h
  rw [State.afterSwap, memWrite_bus _ _ (quiet_memWrite _ _ h'), memWrite_bus _ _ h']

theorem onlyMemoryAndBus_afterSwap (h : s.Quiet) : OnlyMemoryAndBus (s.afterRead16 s.sp) s.afterSwap := by
  have h' : (s.afterRead16 s.sp).Quiet := h
  exact (onlyMemoryAndBus_memWrite _ _ h').trans (onlyMemoryAndBus_memWrite _ _ (quiet_memWrite _ _ h'))

/-- The two addresses differ even where the second wraps to 0000H, and no read changes what stands at an address. -/
theorem afterSwap_stored (h : s.Quiet) : ByteStored s s.afterSwap (s.sp + 1) s.regs.h ∧
    ByteStored s s.afterSwap s.sp s.regs.l ∧ SameMemoryBut [s.sp + 1, s.sp] s s.afterSwap :=
  memWrite_twice (s := s.afterRead16 s.sp) s.regs.h s.regs.l h (word_add_one_ne s.sp).symm

theorem SameMemoryBut.swap {a b : Word} (h : SameMemoryBut [a, b] s t) : SameMemoryBut [b, a] s t :=
  fun c hc => h c (mt (List.Perm.swap b a []).mem_iff.1 hc)

theorem PairWritten.of_regs_sp {rp : Pair} {v : Word} (hr : u.regs = s.regs) (hs : u.sp = s.sp) (h : PairWritten u t rp v) :
    PairWritten s t rp v := by
  have hp (q : Pair) : u.pair q = s.pair q := by cases q <;> simp only [State.pair, hr, hs]
  simpa only [PairWritten, hp, hr] using h

/-- What is left beside memory and the bus history when HL is written last. -/
theorem setPair_hl_whole (h : OnlyMemoryAndBus s u) (v : Word) :
    u.setPair .hl v = ((s.setRegs (u.setPair .hl v).regs).setMem u.mem).setBus u.bus := by
  obtain ⟨m, b, rfl⟩ : ∃ m b, u = (s.setMem m).setBus b := ⟨_, _, h⟩
  rfl

/-! ## Port cycles (R246, R247) -/

/-- The cycle is in the history with the byte it gave, and an open value, if any, is spent. -/
theorem ioRead_whole (p : Byte) (h : s.Quiet) :
    (s.ioRead p).2 = (s.setBus (.ioRead p (s.ioRead p).1 :: s.bus)).setDraws (s.ioRead p).2.draws := by
  cases hv : s.env.ports.lookup p with
  | none => rw [ioRead_open h hv]; rfl
  | some v => rw [ioRead_presented h hv]; rfl

/-- What is left beside the bus history and the count of open values when a register is written last. -/
theorem setReg_whole {b : List BusCycle} {n : Nat} (h : u = (s.setBus b).setDraws n) (r : Reg) (v : Byte) :
    u.setReg r v = ((s.setRegs (u.setReg r v).regs).setBus u.bus).setDraws u.draws := by
  subst h
  rfl

/-! ## What SIM writes (R256) -/

theorem afterSim_masks_set {a : Byte} (c : Control) (h : a.getLsbD 3 = true) :
    (c.afterSim a).m75 = a.getLsbD 2 ∧ (c.afterSim a).m65 = a.getLsbD 1 ∧ (c.afterSim a).m55 = a.getLsbD 0 :=
  ⟨if_pos h, if_pos h, if_pos h⟩

theorem afterSim_masks_kept {a : Byte} (c : Control) (h : a.getLsbD 3 = false) :
    (c.afterSim a).m75 = c.m75 ∧ (c.afterSim a).m65 = c.m65 ∧ (c.afterSim a).m55 = c.m55 :=
  have h' := Bool.eq_false_iff.1 h
  ⟨if_neg h', if_neg h', if_neg h'⟩

theorem afterSim_r75_cleared {a : Byte} (c : Control) (h : a.getLsbD 4 = true) : (c.afterSim a).r75 = false := if_pos h

theorem afterSim_r75_kept {a : Byte} (c : Control) (h : a.getLsbD 4 = false) : (c.afterSim a).r75 = c.r75 :=
  if_neg (Bool.eq_false_iff.1 h)

theorem afterSim_sod_set {a : Byte} (c : Control) (h : a.getLsbD 6 = true) : (c.afterSim a).sod = a.getLsbD 7 := if_pos h

theorem afterSim_sod_kept {a : Byte} (c : Control) (h : a.getLsbD 6 = false) : (c.afterSim a).sod = c.sod :=
  if_neg (Bool.eq_false_iff.1 h)

/-! ## The meanings, each as one operation -/

theorem exec_pushRp (rp : StackPair) (s : State) : exec (.pushRp rp) s = .next (s.push16 (s.regs.stackPair rp)) := rfl

theorem exec_pushPsw (s : State) : exec .pushPsw s = .next (s.push16 (ofBytes s.regs.a s.flags.toByte)) := rfl

theorem exec_popRp (rp : StackPair) (h : s.Quiet) :
    exec (.popRp rp) s = .next (s.afterPop.setRegs (s.regs.setStackPair rp (s.seen16 s.sp))) := by
  simp only [exec, execPopRp, pop16_seen h]
  rfl

theorem exec_popPsw (h : s.Quiet) : exec .popPsw s =
    .next ((s.afterPop.setRegs { s.regs with a := (s.afterRead s.sp).seen (s.sp + 1) }).setFlags
      (Flags.ofByte (s.seen s.sp))) := by
  simp only [exec, execPopPsw, pop16_seen h, hiByte_seen16, loByte_seen16]
  rfl

theorem exec_xthl (h : s.Quiet) : exec .xthl s = .next (s.afterSwap.setPair .hl (s.seen16 s.sp)) := by
  have h' : (s.afterRead s.sp).Quiet := h
  simp only [exec, execXthl, memRead_seen s.sp h, memRead_seen (s.sp + 1) h', State.setPair, Regs.setHl,
    State.afterSwap_regs, hiByte_seen16, loByte_seen16]
  rfl

theorem exec_inp (p : Byte) (s : State) : exec (.inp p) s = .next ((s.ioRead p).2.setReg .a (s.ioRead p).1) := rfl

theorem exec_out (p : Byte) (h : s.Quiet) : exec (.out p) s = .next (s.setBus (.ioWrite p s.regs.a :: s.bus)) :=
  congrArg Host.Outcome.next (ioWrite_quiet p s.regs.a h)

theorem exec_rim (s : State) : exec .rim s =
    .next ((s.setCtl { s.ctl with trapArmed := false }).setReg .a
      (rimByte s.env.sid s.ctl.r75 s.env.rst65 s.env.rst55 (if s.ctl.trapArmed then s.ctl.trapSaved else s.ctl.inte)
        s.ctl.m75 s.ctl.m65 s.ctl.m55)) := rfl

theorem exec_sim (s : State) : exec .sim s = .next (s.setCtl (s.ctl.afterSim s.regs.a)) := rfl

/-! ## The statements -/

/-- Settles O30: each is one push, of a pair or of A over the flag byte. -/
theorem pushes : Obligations.Pushes := by
  intro s rp h
  have bit := toByte_getLsbD s.flags
  refine ⟨rfl, ?_, ?_, ?_, rfl, s.flags.toByte, ?_, ?_⟩
  · exact pushesWord_of_exec h (exec_pushRp .bc s)
  · exact pushesWord_of_exec h (exec_pushRp .de s)
  · exact pushesWord_of_exec h (exec_pushRp .hl s)
  · exact pushesWord_of_exec h (exec_pushPsw s)
  · exact ⟨bit 7, bit 6, bit 5, bit 4, bit 3, bit 2, bit 1, bit 0⟩

/-- Settles O31: each is one pop, whose two bytes become the halves of a pair, or A and the flags. -/
theorem pops : Obligations.Pops := by
  intro s rp h
  have pop (q : StackPair) := exec_popRp q h
  simp only [Regs.setStackPair, Regs.setBc, Regs.setDe, Regs.setHl, hiByte_seen16, loByte_seen16] at pop
  refine ⟨rfl, pop .bc, pop .de, pop .hl, rfl, _, exec_popPsw h, rfl, ?_⟩
  exact ⟨rfl, rfl, rfl, rfl, rfl, rfl, rfl⟩

/-- Settles O33: the exchange is the two reads, the two writes, and one write of HL with the word read. -/
theorem exchangeTop : Obligations.ExchangeTop := by
  intro s h
  obtain ⟨stored_h, stored_l, kept⟩ := afterSwap_stored h
  refine ⟨rfl, _, exec_xthl h, ?_, stored_h, stored_l, kept.swap, afterSwap_bus h, ?_⟩
  · exact (pairWritten_setPair s.afterSwap .hl _).of_regs_sp s.afterSwap_regs s.afterSwap_sp
  · exact setPair_hl_whole (onlyMemoryAndBus_afterSwap h) _

/-- Settles O34: IN is one port read and a write of A, OUT one port write. -/
theorem inputOutput : Obligations.InputOutput := by
  intro s p h
  have whole := ioRead_whole p h
  refine ⟨⟨rfl, _, exec_inp p s, ?_, ?_, fun v hv => ?_, ?_⟩, rfl, exec_out p h⟩
  · exact (regWritten_setReg (s.ioRead p).2 .a _).of_regs (s.ioRead_regs p)
  · exact congrArg State.bus whole
  · rw [ioRead_presented h hv]
    exact ⟨rfl, rfl⟩
  · exact setReg_whole whole .a (s.ioRead p).1

/-- Settles O36: RIM writes A with its eight bits and clears TRAPIE.armed. -/
theorem readInterruptMask : Obligations.ReadInterruptMask := by
  intro s
  refine ⟨rfl, _, exec_rim s, fun k => ?_, ?_, rfl⟩
  · exact rimByte_getLsbD _ _ _ _ _ _ _ _ k
  · exact (regWritten_setReg (s.setCtl _) .a _).of_regs rfl

/-- Settles O37: each enable bit alone decides its own part of what SIM writes. -/
theorem setInterruptMask : Obligations.SetInterruptMask := by
  intro s
  refine ⟨rfl, _, exec_sim s, ?_⟩
  exact ⟨afterSim_masks_set s.ctl, afterSim_masks_kept s.ctl, afterSim_r75_cleared s.ctl, afterSim_r75_kept s.ctl,
    afterSim_sod_set s.ctl, afterSim_sod_kept s.ctl, rfl⟩

end Sys2Proof.Machine
end

section
/-! PROOFS. The extended instructions on a whole pair (45_extended.md R271, R272, R275, R276, R278): a half, a difference, a sum
with a byte and a rotate of 16 bits as numbers, and each instruction as one write of a pair. -/

namespace Sys2Proof.Machine

variable {s : State}

/-! ## Half of a signed word (R271) -/

/-- Bit 15 kept, every other bit one place right. -/
def halfSigned (w : Word) : Word := BitVec.ofBool (w.getLsbD 15) ++ w.extractLsb' 1 15

/-- The bits say an arithmetic shift, which the library knows as a division. -/
theorem halfSigned_eq_sshiftRight (w : Word) : halfSigned w = w.sshiftRight 1 := by
  apply BitVec.eq_of_getLsbD_eq
  intro k hk
  rw [halfSigned, BitVec.getLsbD_append, BitVec.getLsbD_sshiftRight]
  by_cases hlow : k < 15
  · simp [hlow, hk, show 1 + k < 16 by omega]
  · obtain rfl : k = 15 := by omega
    simp [BitVec.msb_eq_getLsbD_last]

theorem halfSigned_toInt (w : Word) : (halfSigned w).toInt = w.toInt / 2 := by
  rw [halfSigned_eq_sshiftRight, BitVec.toInt_sshiftRight, Int.shiftRight_eq_div_pow]
  rfl

/-- Bit 0, which the shift moves out, is the remainder. -/
theorem word_bit_zero (w : Word) : w.getLsbD 0 = true ↔ w.toNat % 2 = 1 := by
  rw [BitVec.getLsbD, Nat.testBit_zero, decide_eq_true_eq]

/-! ## The difference of two words (R272) -/

theorem word_msb (w : Word) : w.msb = true ↔ 32768 ≤ w.toNat := by
  rw [BitVec.msb_eq_decide]
  exact decide_eq_true_iff

theorem dsubFlags_z (a b : Word) (p ac : Bool) : (dsubFlags a b p ac).z = true ↔ a = b := by
  rw [dsubFlags, beq_iff_eq]
  exact sub_eq_zero

/-- The model's V is the library's signed overflow, told by the three signs. -/
theorem dsubFlags_v_eq_ssubOverflow (a b : Word) (p ac : Bool) : (dsubFlags a b p ac).v = a.ssubOverflow b := by
  rw [BitVec.ssubOverflow_eq, dsubFlags]
  cases a.msb <;> cases b.msb <;> cases (a - b).msb <;> rfl

theorem ssubOverflow_iff (a b : Word) :
    a.ssubOverflow b = true ↔ a.toInt - b.toInt < -32768 ∨ 32767 < a.toInt - b.toInt := by
  simp only [BitVec.ssubOverflow, Bool.or_eq_true, decide_eq_true_eq]
  omega

theorem maj_self_not (p q : Bool) : maj p (!p) q = q := by cases p <;> simp [maj]

theorem maj_self_self (p q : Bool) : maj p p q = p := by cases p <;> simp [maj]

theorem not_ssubOverflow_of_msb_eq {a b : Word} (h : a.msb = b.msb) : ¬ a.ssubOverflow b = true := by
  rw [BitVec.ssubOverflow_eq, h]
  cases b.msb <;> simp

/-- Where the signs agree, the difference fits in 16 bits and its sign decides; where they differ, they decide. -/
theorem maj_signs_iff_toInt_lt (a b : Word) : maj a.msb (!b.msb) (a - b).msb = true ↔ a.toInt < b.toInt := by
  by_cases h : a.msb = b.msb
  · rw [h, maj_self_not, BitVec.msb_eq_toInt, BitVec.toInt_sub_of_not_ssubOverflow (not_ssubOverflow_of_msb_eq h),
      decide_eq_true_iff, sub_neg]
  · rw [← Bool.eq_not_of_ne h, maj_self_self]
    simp only [BitVec.msb_eq_toInt, decide_eq_decide] at h
    rw [BitVec.msb_eq_toInt, decide_eq_true_iff]
    omega

/-! ## A byte added to a word (R275, R276) -/

theorem word_add_byte_eq_ofNat (w : Word) (v : Byte) : w + v.setWidth 16 = BitVec.ofNat 16 (w.toNat + v.toNat) := by
  rw [BitVec.ofNat_add, BitVec.ofNat_toNat, BitVec.ofNat_toNat, BitVec.setWidth_eq]

/-! ## The rotate of a word through CY (R278) -/

/-- The low fifteen bits moved up, with `c` below them. -/
def rotateLeftIn (w : Word) (c : Bool) : Word := w.extractLsb' 0 15 ++ BitVec.ofBool c

theorem rotateLeftIn_eq_shiftConcat (w : Word) (c : Bool) : rotateLeftIn w c = w.shiftConcat c := by
  apply BitVec.eq_of_getLsbD_eq
  intro k hk
  rw [rotateLeftIn, BitVec.getLsbD_append, BitVec.getLsbD_shiftConcat]
  cases k with
  | zero => simp
  | succ k => simp [hk, show k < 15 by omega]

theorem rotateLeftIn_eq_ofNat (w : Word) (c : Bool) : rotateLeftIn w c = BitVec.ofNat 16 (2 * w.toNat + c.toNat) := by
  apply BitVec.eq_of_toNat_eq
  rw [rotateLeftIn_eq_shiftConcat, BitVec.toNat_shiftConcat, BitVec.toNat_ofNat, Nat.shiftLeft_eq, pow_one, Nat.mul_comm]

theorem rotateLeftIn_msb (w : Word) (c : Bool) : (rotateLeftIn w c).msb = w.getLsbD 14 := by
  rw [BitVec.msb_eq_getLsbD_last, rotateLeftIn_eq_shiftConcat, BitVec.getLsbD_shiftConcat]
  simp

/-- Bit 15, which the rotate moves out, is the carry; the bit moved in cannot make one. -/
theorem word_msb_iff_carry (w : Word) (c : Bool) : w.msb = true ↔ 65536 ≤ 2 * w.toNat + c.toNat := by
  have hc := c.toNat_lt
  rw [word_msb]
  omega

/-- Bits 15 and 14 are the signs before and after. -/
theorem xor_signs_iff_msb_ne (w : Word) (c : Bool) :
    (w.getLsbD 15 ^^ w.getLsbD 14) = true ↔ (rotateLeftIn w c).msb ≠ w.msb := by
  rw [rotateLeftIn_msb, BitVec.msb_eq_getLsbD_last, bne_iff_ne]
  exact ne_comm

/-! ## The meanings, each as one write of a pair -/

theorem exec_arhl (s : State) :
    exec .arhl s = .next ((s.setPair .hl (halfSigned (s.pair .hl))).setFlags
      { s.flags with cy := (s.pair .hl).getLsbD 0 }) := rfl

/-- The open values of P and AC take a draw each. -/
theorem exec_dsub (s : State) :
    exec .dsub s = .next (((s.setDraws (s.draws + 2)).setPair .hl (s.pair .hl - s.pair .bc)).setFlags
      (dsubFlags (s.pair .hl) (s.pair .bc) (Config.freeBit s.draws) (Config.freeBit (s.draws + 1)))) := rfl

theorem exec_ldhi (v : Byte) (s : State) : exec (.ldhi v) s = .next (s.setPair .de (s.pair .hl + v.setWidth 16)) := rfl

theorem exec_ldsi (v : Byte) (s : State) : exec (.ldsi v) s = .next (s.setPair .de (s.sp + v.setWidth 16)) := rfl

theorem exec_rdel (s : State) :
    exec .rdel s = .next ((s.setPair .de (rotateLeftIn (s.pair .de) s.flags.cy)).setFlags
      { s.flags with
        cy := (s.pair .de).msb
        v := (s.pair .de).getLsbD 15 ^^ (s.pair .de).getLsbD 14 }) := rfl

/-- The instruction writes DE with a word plus a byte and nothing else. -/
theorem loadsDe_of_exec {i : Instr} {w : Word} {v : Byte} (hi : exec i s = .next (s.setPair .de (w + v.setWidth 16))) :
    ∃ t, exec i s = .next t ∧ PairWritten s t .de (BitVec.ofNat 16 (w.toNat + v.toNat)) ∧ OnlyRegs s t := by
  rw [word_add_byte_eq_ofNat] at hi
  exact ⟨_, hi, pairWritten_setPair s .de _, rfl⟩

/-! ## The statements -/

/-- Settles O38: ARHL is one write of HL with half of it, and of CY with the bit moved out. -/
theorem arithmeticShift : Obligations.ArithmeticShift := by
  intro s
  have written := pairWritten_setPair_setFlags s .hl (halfSigned (s.pair .hl))
    { s.flags with cy := (s.pair .hl).getLsbD 0 }
  have holds_half := written.1
  refine ⟨rfl, _, exec_arhl s, ?_, ?_, ?_, rfl, rfl⟩
  · rw [holds_half]; exact halfSigned_toInt (s.pair .hl)
  · exact word_bit_zero (s.pair .hl)
  · rw [holds_half]; exact written

/-- Settles O39: DSUB is one write of HL with the difference, whose flags are taken over. -/
theorem doubleSubtract : Obligations.DoubleSubtract := by
  intro s a b
  refine ⟨rfl, _, exec_dsub s, ?_, ?_, ?_, ?_, ?_, ?_, rfl⟩
  · exact pairWritten_setPair_setFlags (s.setDraws (s.draws + 2)) .hl (a - b) _
  · exact dsubFlags_z a b _ _
  · exact word_msb (a - b)
  · exact decide_eq_true_iff
  · rw [← ssubOverflow_iff, ← dsubFlags_v_eq_ssubOverflow]; rfl
  · exact maj_signs_iff_toInt_lt a b

/-- Settles O40: both are one write of DE with the sum. -/
theorem loadPairPlusByte : Obligations.LoadPairPlusByte :=
  fun s v => ⟨⟨rfl, loadsDe_of_exec (exec_ldhi v s)⟩, ⟨rfl, loadsDe_of_exec (exec_ldsi v s)⟩⟩

/-- Settles O41: RDEL is one write of DE with the rotated word, of CY with the bit moved out, and of V from the two signs. -/
theorem rotateDeThroughCarry : Obligations.RotateDeThroughCarry := by
  intro s
  dsimp only
  rw [← rotateLeftIn_eq_ofNat]
  refine ⟨rfl, _, exec_rdel s, ?_, ?_, ?_, rfl, rfl⟩
  · exact pairWritten_setPair_setFlags s .de _ _
  · exact word_msb_iff_carry (s.pair .de) s.flags.cy
  · rw [(pairWritten_setPair_setFlags s .de (rotateLeftIn (s.pair .de) s.flags.cy) _).1]
    exact xor_signs_iff_msb_ne (s.pair .de) s.flags.cy

end Sys2Proof.Machine
end

section
/-! PROOFS. The entry of an interrupt (60_exceptions.md R315, R316, R318 to R320): what a restart and an acknowledged INTR do,
each as acknowledge cycles, if any, followed by one call. -/

namespace Sys2Proof.Machine

variable {s : State}

/-! ## The control state -/

/-- Each restart clears its own latch alone, and only TRAP touches TRAPIE (R315, R324). -/
theorem onRestart_eq (c : Control) (k : Restart) : c.onRestart k = { c with
    inte := false
    eiPend := false
    halted := false
    trapL := c.trapL && k != .trap
    r75 := c.r75 && k != .rst75
    trapSaved := if k = .trap then c.inte else c.trapSaved
    trapArmed := c.trapArmed || k == .trap } := by
  cases k <;> simp [Control.onRestart, Control.onInterrupt]

/-! ## The acknowledge of INTR -/

/-- The state after the interrupt-acknowledge cycles `acks`, the newest first, which touch the history alone. -/
def State.afterAcks (s : State) (acks : List BusCycle) : State := s.setBus (acks ++ s.bus)

theorem intaRead_afterAcks (v : Byte) (acks : List BusCycle) (h : s.Quiet) :
    (s.afterAcks acks).intaRead v = (v, s.afterAcks (.interruptAcknowledge v :: acks)) :=
  intaRead_quiet (s := s.afterAcks acks) v h

/-- What is left of the acknowledge once its first cycle has given a byte. -/
theorem acknowledge_quiet (h : s.Quiet) : s.acknowledge =
    let t := s.afterAcks [.interruptAcknowledge s.env.inta0]
    if s.env.inta0 &&& 0xC7#8 = 0xC7#8 then .next (t.callTo (restartAddress (s.env.inta0.extractLsb' 3 3).toNat))
    else if s.env.inta0 = 0xCD#8 then
      .next ((s.afterAcks [.interruptAcknowledge s.env.inta2, .interruptAcknowledge s.env.inta1,
        .interruptAcknowledge s.env.inta0]).callTo (ofBytes s.env.inta2 s.env.inta1))
    else .refused (.acknowledgedOther s.env.inta0) := by
  have first : s.intaRead s.env.inta0 = (s.env.inta0, s.afterAcks [.interruptAcknowledge s.env.inta0]) :=
    intaRead_quiet _ h
  have whole : (s.afterAcks [.interruptAcknowledge s.env.inta0]).abandoned = false := h.2.1
  simp only [State.acknowledge, first, whole, Bool.false_eq_true, if_false, intaRead_afterAcks _ _ h]

/-- The byte of RST n is told by its five fixed bits, and gives back its operand (R95). -/
theorem rst_byte_fields : ∀ n : BitVec 3,
    (0b11#2 ++ n ++ 0b111#3 : Byte) &&& 0xC7#8 = 0xC7#8 ∧ (0b11#2 ++ n ++ 0b111#3 : Byte).extractLsb' 3 3 = n := by
  decide

theorem acknowledge_rst {n : BitVec 3} (h : s.Quiet) (hn : s.env.inta0 = 0b11#2 ++ n ++ 0b111#3) :
    s.acknowledge = .next ((s.afterAcks [.interruptAcknowledge s.env.inta0]).callTo (BitVec.ofNat 16 (8 * n.toNat))) := by
  obtain ⟨fixed, operand⟩ := rst_byte_fields n
  rw [← hn] at fixed operand
  rw [acknowledge_quiet h]
  dsimp only
  rw [if_pos fixed, operand, restartAddress]

theorem acknowledge_call (h : s.Quiet) (hc : s.env.inta0 = 0xCD#8) :
    s.acknowledge = .next ((s.afterAcks [.interruptAcknowledge s.env.inta2, .interruptAcknowledge s.env.inta1,
      .interruptAcknowledge 0xCD#8]).callTo (ofBytes s.env.inta2 s.env.inta1)) := by
  have notRst : ¬ 0xCD#8 &&& 0xC7#8 = 0xC7#8 := by decide
  rw [acknowledge_quiet h, hc]
  dsimp only
  rw [if_neg notRst, if_pos rfl]

/-! ## A step that takes a request -/

theorem boundary_takes {q : Request} (hr : s.sample.env.resetIn = false) (hh : s.sample.env.hold = false)
    (hq : s.sample.releaseBus.request = some q) (hs : s.suspended = none) :
    s.boundary = .run (.entry q) (s.sample.releaseBus.accept q) := by
  rcases boundary_cases s with ⟨k, -⟩ | ⟨-, k, -⟩ | ⟨-, -, ⟨p, k, -⟩ | ⟨-, ⟨q', k, hb⟩ | ⟨k, -⟩ | ⟨k, -⟩⟩⟩
  · simp [hr] at k
  · simp [hh] at k
  · simp [hs] at k
  · cases hq.symm.trans k
    exact hb
  · simp [hq] at k
  · simp [hq] at k

/-- The step takes `q` in the acknowledge cycles `acks` and one call: pc is pushed as it was, control goes to `target`, and
nothing else changes but what taking `q` does to the control state. -/
def EntersByCall (s : State) (q : Request) (acks : List BusCycle) (target : Word) : Prop :=
  let u := s.sample.releaseBus
  ∃ t, step s = .next t ∧ Pushed (u.afterAcks acks) t u.pc ∧ t.pc = target ∧ t.ctl = u.ctl.onRequest q ∧
    OnlyStackAndPc (u.setCtl (u.ctl.onRequest q)) t

/-- Nothing cuts an entry that comes down to a call, and what is accepted before differs in the control state alone. -/
theorem entersByCall_of_enter {q : Request} {acks : List BusCycle} {target : Word} (hr : s.sample.env.resetIn = false)
    (hh : s.sample.env.hold = false) (hq : s.sample.releaseBus.request = some q) (h : s.sample.releaseBus.Quiet)
    (he : (s.sample.releaseBus.accept q).enter q = .next (((s.sample.releaseBus.accept q).afterAcks acks).callTo target)) :
    EntersByCall s q acks target := by
  have hs : s.suspended = none := s.sample_suspended ▸ h.2.2
  have quiet : ((s.sample.releaseBus.accept q).afterAcks acks).Quiet := h
  obtain ⟨-, whole, fresh⟩ := quiet_callTo target quiet
  refine ⟨((s.sample.releaseBus.accept q).afterAcks acks).callTo target, ?_, callTo_pushed target quiet, rfl,
    State.push16_ctl .., callTo_whole target quiet⟩
  rw [step_run (boundary_takes hr hh hq hs), State.perform, he, settle_whole whole fresh]

/-! ## The statements -/

/-- Settles O44: a restart is entered by a call of its vector, with no acknowledge cycle. -/
theorem restartEntry : Obligations.RestartEntry := by
  intro s k u hr hh hq h
  obtain ⟨t, ht, pushed, hpc, hctl, only⟩ : EntersByCall s (.restart k) [] k.vector :=
    entersByCall_of_enter hr hh hq h rfl
  refine ⟨t, ht, pushed, ?_, ?_, ?_⟩
  · rw [hpc]
    cases k <;> rfl
  · exact hctl.trans (onRestart_eq u.ctl k)
  · rw [hctl]
    exact only

/-- Settles O45: INTR is entered by a call, of a restart address after one acknowledge cycle or of the word the device supplies
in the second and third. -/
theorem intrEntry : Obligations.IntrEntry := by
  intro s u enters hr hh hq h
  have enters_of {acks : List BusCycle} {target : Word}
      (he : (u.accept .intr).acknowledge = .next (((u.accept .intr).afterAcks acks).callTo target)) :
      enters acks target := by
    obtain ⟨t, ht, pushed, hpc, -, only⟩ := entersByCall_of_enter hr hh hq h he
    exact ⟨t, ht, pushed, hpc, only⟩
  exact ⟨fun n hn => enters_of (acknowledge_rst (s := u.accept .intr) h hn),
    fun hc => enters_of (acknowledge_call (s := u.accept .intr) h hc)⟩

end Sys2Proof.Machine
end

section
/-! PROOFS. The encoder and the decoder undo each other (30_encoding.md section 3): what the decoder reads from the bytes of an
instruction, whatever stands where it has no byte, and what the encoder writes of a decoded instruction. -/

namespace Sys2Proof

/-! ## The decoder undoes the encoder -/

/-- The decoder, given the bytes of the encoding and any others where there are none, gives the instruction back. -/
def DecodesBack (i : Instr) : Prop :=
  ∀ b1 b2, decodeWith ((encode i).getD 0 0x00#8) ((encode i).getD 1 b1) ((encode i).getD 2 b2) = i

/-- A 16-bit operand is put together again from its two bytes. -/
theorem decodesBack_of_word {opcode : Byte} {mk : Word → Instr} {w : Word} (he : encode (mk w) = withWord opcode w)
    (hd : ∀ b1 b2, decodeWith opcode b1 b2 = mk (ofBytes b2 b1)) : DecodesBack (mk w) := by
  intro b1 b2
  rw [he]
  exact (hd _ _).trans (congrArg mk (ofBytes_hiByte_loByte w))

theorem decodesBack_of_byte {opcode v : Byte} {mk : Byte → Instr} (he : encode (mk v) = [opcode, v])
    (hd : ∀ b1 b2, decodeWith opcode b1 b2 = mk b1) : DecodesBack (mk v) := by
  intro b1 b2
  rw [he]
  exact hd _ _

theorem decodesBack_mviR (r : Reg) (v : Byte) : DecodesBack (.mviR r v) := by
  cases r <;> exact decodesBack_of_byte rfl fun _ _ => rfl

theorem decodesBack_lxi (rp : Pair) (w : Word) : DecodesBack (.lxi rp w) := by
  cases rp <;> exact decodesBack_of_word rfl fun _ _ => rfl

/-- The restart number is the one operand that an instruction can hold and its encoding cannot (R95). -/
theorem decodesBack_rst {n : Nat} (h : n < 8) : DecodesBack (.rst n) := by
  interval_cases n <;> exact fun _ _ => rfl

theorem decodesBack_of_wellFormed {i : Instr} (h : i.wellFormed = true) : DecodesBack i := by
  cases i
  case movRR dst src => cases dst <;> cases src <;> exact fun _ _ => rfl
  case movRM r | movMR r | inrR r | dcrR r => cases r <;> exact fun _ _ => rfl
  case addR r | adcR r | subR r | sbbR r | anaR r | xraR r | oraR r | cmpR r => cases r <;> exact fun _ _ => rfl
  case inx rp | dcx rp | dad rp => cases rp <;> exact fun _ _ => rfl
  case ldax rp | stax rp => cases rp <;> exact fun _ _ => rfl
  case pushRp rp | popRp rp => cases rp <;> exact fun _ _ => rfl
  case mviR r v => exact decodesBack_mviR r v
  case lxi rp w => exact decodesBack_lxi rp w
  case rst n => exact decodesBack_rst (of_decide_eq_true h)
  case mviM | adi | aci | sui | sbi | ani | xri | ori | cpi => exact decodesBack_of_byte rfl fun _ _ => rfl
  case inp | out | ldhi | ldsi => exact decodesBack_of_byte rfl fun _ _ => rfl
  case lda | sta | lhld | shld => exact decodesBack_of_word rfl fun _ _ => rfl
  case jmp | jnz | jz | jnc | jc | jpo | jpe | jp | jm | jnui | jui => exact decodesBack_of_word rfl fun _ _ => rfl
  case call | cnz | cz | cnc | cc | cpo | cpe | cp | cm => exact decodesBack_of_word rfl fun _ _ => rfl
  all_goals exact fun _ _ => rfl

/-- Reading a list of bytes takes as many as the first of them says, and those behind play no part. -/
theorem decode_append_of_decodesBack {i : Instr} (h : DecodesBack i) (rest : List Byte) :
    decode (encode i ++ rest) = .ok (i, rest) := by
  have length_eq := Laws.EncodedLength.all i
  unfold Laws.EncodedLength.Statement at length_eq
  unfold DecodesBack at h
  generalize encode i = bytes at h length_eq ⊢
  rcases opcodeLength_range (bytes.getD 0 0x00#8) with k | k | k <;> rw [k] at length_eq
  · obtain ⟨b0, rfl⟩ := List.length_eq_one_iff.1 length_eq
    change opcodeLength b0 = 1 at k
    rw [List.singleton_append, decode_cons_of_le (by simp [k]), k]
    exact congrArg (fun i => Except.ok (i, rest)) (h _ _)
  · obtain ⟨b0, b1, rfl⟩ := List.length_eq_two.1 length_eq
    change opcodeLength b0 = 2 at k
    rw [List.cons_append, decode_cons_of_le (by simp [k]), k]
    exact congrArg (fun i => Except.ok (i, rest)) (h 0x00#8 _)
  · obtain ⟨b0, b1, b2, rfl⟩ := List.length_eq_three.1 length_eq
    change opcodeLength b0 = 3 at k
    rw [List.cons_append, decode_cons_of_le (by simp [k]), k]
    exact congrArg (fun i => Except.ok (i, rest)) (h 0x00#8 0x00#8)

theorem decode_encode_append {i : Instr} (h : i.wellFormed = true) (rest : List Byte) :
    decode (encode i ++ rest) = .ok (i, rest) := decode_append_of_decodesBack (decodesBack_of_wellFormed h) rest

/-! ## The encoder undoes the decoder -/

/-- The operand bytes of an encoding of `n` bytes, with a byte or a word as its operand (R90, R96). -/
def operandBytes (n : Nat) (d8 : Byte) (a16 : Word) : List Byte :=
  match n with
  | 2 => [d8]
  | 3 => [loByte a16, hiByte a16]
  | _ => []

/-- An instruction of block 00 or 11, decoded with one operand or another, is encoded by the same first byte and that operand. -/
theorem encode_decode00 (y z : BitVec 3) (d d' : Byte) (a a' : Word) : encode (decode00 y z d a) =
    (encode (decode00 y z d' a')).getD 0 0x00#8 :: operandBytes (encode (decode00 y z d' a')).length d a := by
  unfold decode00
  split
  case h_9 | h_18 => split_ifs <;> rfl
  case h_19 | h_20 | h_21 => cases Reg.ofCode y <;> rfl
  all_goals rfl

theorem encode_decode01 (y z : BitVec 3) (d : Byte) (a : Word) : encode (decode01 y z) =
    (encode (decode01 y z)).getD 0 0x00#8 :: operandBytes (encode (decode01 y z)).length d a := by
  unfold decode01
  split <;> rfl

theorem encode_decode10 (y z : BitVec 3) (d : Byte) (a : Word) : encode (decode10 y z) =
    (encode (decode10 y z)).getD 0 0x00#8 :: operandBytes (encode (decode10 y z)).length d a := by
  unfold decode10
  split <;> rfl

theorem encode_decode11 (y z : BitVec 3) (d d' : Byte) (a a' : Word) : encode (decode11 y z d a) =
    (encode (decode11 y z d' a')).getD 0 0x00#8 :: operandBytes (encode (decode11 y z d' a')).length d a := by
  unfold decode11
  split
  case h_13 | h_42 => cases StackPair.ofCode (y.extractLsb' 1 2) <;> rfl
  all_goals rfl

theorem encode_decodeWith_congr (b0 b1 b2 c1 c2 : Byte) : encode (decodeWith b0 b1 b2) =
    (encode (decodeWith b0 c1 c2)).getD 0 0x00#8 ::
      operandBytes (encode (decodeWith b0 c1 c2)).length b1 (ofBytes b2 b1) := by
  simp only [decodeWith]
  split
  · exact encode_decode00 ..
  · exact encode_decode01 ..
  · exact encode_decode10 ..
  · exact encode_decode11 ..

/-- The opcode map against the encodings, over the 256 first bytes. -/
theorem first_encode_decodeWith_zero : ∀ b0 : Byte, (encode (decodeWith b0 0 0)).getD 0 0x00#8 = b0 := by
  decide

theorem encode_decodeWith (b0 b1 b2 : Byte) :
    encode (decodeWith b0 b1 b2) = b0 :: operandBytes (opcodeLength b0) b1 (ofBytes b2 b1) := by
  rw [encode_decodeWith_congr b0 b1 b2 0 0, first_encode_decodeWith_zero, length_encode_decodeWith_zero]

/-- The bytes that the decoder took, put before those it left, are the bytes there were. -/
theorem operandBytes_append_drop {n : Nat} {rest : List Byte} (hn : n = 1 ∨ n = 2 ∨ n = 3) (h : n ≤ rest.length + 1) :
    operandBytes n (rest.getD 0 0x00#8) (ofBytes (rest.getD 1 0x00#8) (rest.getD 0 0x00#8)) ++ rest.drop (n - 1) = rest := by
  rcases hn with rfl | rfl | rfl
  · rfl
  · match rest, h with
    | _ :: _, _ => rfl
  · match rest, h with
    | _ :: _ :: _, _ => simp [operandBytes]

theorem encode_append_of_decode {bytes rest : List Byte} {i : Instr} (h : decode bytes = .ok (i, rest)) :
    i.wellFormed = true ∧ encode i ++ rest = bytes := by
  cases bytes with
  | nil => cases h
  | cons b0 tail =>
    rcases Nat.lt_or_ge (tail.length + 1) (opcodeLength b0) with hlt | hle
    · rw [decode_cons_of_lt hlt] at h
      cases h
    · rw [decode_cons_of_le hle] at h
      cases h
      refine ⟨decodeWith_wellFormed .., ?_⟩
      rw [encode_decodeWith, List.cons_append, operandBytes_append_drop (opcodeLength_range b0) hle]

/-- Two well-formed instructions of one encoding are one: the decoder tells them from it. -/
theorem encode_injective {i j : Instr} (hi : i.wellFormed = true) (hj : j.wellFormed = true) (h : encode i = encode j) :
    i = j := by
  have hd := decode_encode_append hi []
  rw [h, decode_encode_append hj []] at hd
  cases hd
  rfl

/-! ## The statements -/

/-- Settles O1: each instruction is decoded from its own bytes, and the bytes behind them are left. -/
theorem decodeOfEncode : Obligations.DecodeOfEncode := fun _ rest h => decode_encode_append h rest

/-- Settles O2: the decoder builds well-formed instructions only, and the encoder writes the bytes it read. -/
theorem encodeOfDecode : Obligations.EncodeOfDecode := fun _ _ _ h => encode_append_of_decode h

/-- Settles O4: each number is three bytes, of which the decoder takes those of its instruction. -/
theorem wordsDecode : Obligations.WordsDecode := by
  refine ⟨?_, ?_, ?_, ?_, ?_, ?_, ?_, ?_⟩ <;> decide

end Sys2Proof
end

section
/-! PROOFS. What an instruction leaves unchanged (10_state.md R24, R35 to R46; 20_memory.md R61): of the control state, SP and
the flags, whatever disturbs it, and of the history of I/O cycles. -/

namespace Sys2Proof.Machine

variable {s t u : State} {ctl sp flags : Bool}

/-! ## What the shared operations keep -/

/-- From `s` to `t`, those of control state, SP and flags are the same that `ctl`, `sp` and `flags` say. -/
structure Kept (ctl sp flags : Bool) (s t : State) : Prop where
  ctl_eq : ctl = true → t.ctl = s.ctl
  sp_eq : sp = true → t.sp = s.sp
  flags_eq : flags = true → t.flags = s.flags

theorem Kept.of_eq (hc : t.ctl = s.ctl) (hs : t.sp = s.sp) (hf : t.flags = s.flags) : Kept ctl sp flags s t :=
  ⟨fun _ => hc, fun _ => hs, fun _ => hf⟩

theorem Kept.but_flags (hc : t.ctl = s.ctl) (hs : t.sp = s.sp) : Kept ctl sp false s t := ⟨fun _ => hc, fun _ => hs, nofun⟩

theorem Kept.but_sp (hc : t.ctl = s.ctl) (hf : t.flags = s.flags) : Kept ctl false flags s t :=
  ⟨fun _ => hc, nofun, fun _ => hf⟩

theorem Kept.but_ctl (hs : t.sp = s.sp) (hf : t.flags = s.flags) : Kept false sp flags s t :=
  ⟨nofun, fun _ => hs, fun _ => hf⟩

theorem Kept.trans (h : Kept ctl sp flags s t) (k : Kept ctl sp flags t u) : Kept ctl sp flags s u :=
  ⟨fun e => (k.ctl_eq e).trans (h.ctl_eq e), fun e => (k.sp_eq e).trans (h.sp_eq e),
    fun e => (k.flags_eq e).trans (h.flags_eq e)⟩

theorem CoreKept.kept (h : CoreKept s t) : Kept ctl sp flags s t := .of_eq h.ctl h.sp h.flags

theorem loadReg_kept (s : State) (r : Reg) (a : Word) : Kept ctl sp flags s (s.loadReg r a) :=
  (memRead_core s a).kept.trans (.of_eq rfl rfl rfl)

theorem loadHl_kept (s : State) (a : Word) : Kept ctl sp flags s (s.loadHl a) :=
  (loadReg_kept s .l a).trans (loadReg_kept _ .h _)

theorem storeHl_kept (s : State) (a : Word) : Kept ctl sp flags s (s.storeHl a) :=
  ((memWrite_core s _ _).trans (memWrite_core _ _ _)).kept

theorem xthl_kept (s : State) (x : Regs) : Kept ctl sp flags s
    (((((s.memRead s.sp).2.memRead (s.sp + 1)).2.memWrite (s.sp + 1) s.regs.h).memWrite s.sp s.regs.l).setRegs x) :=
  ((((memRead_core s _).trans (memRead_core _ _)).trans (memWrite_core _ _ _)).trans (memWrite_core _ _ _)).kept.trans
    (.of_eq rfl rfl rfl)

theorem jumpIf_kept (s : State) (cond : Cond) (a : Word) : Kept ctl sp flags s (s.jumpIf cond a) := by
  rw [jumpIf_eq]
  exact .of_eq rfl rfl rfl

theorem callTo_kept (s : State) (a : Word) : Kept ctl false flags s (s.callTo a) :=
  .but_sp (s.push16_ctl s.pc) (s.push16_flags s.pc)

theorem popPc_kept (s : State) : Kept ctl false flags s s.popPc := .but_sp s.pop16_ctl s.pop16_flags

theorem ite_kept {b : Bool} (h : Kept ctl sp flags s t) : Kept ctl sp flags s (if b then t else s) := by
  split
  · exact h
  · exact .of_eq rfl rfl rfl

theorem withM_kept (s : State) {f : State → Byte → State} (hf : ∀ t b, Kept ctl sp flags t (f t b)) :
    Kept ctl sp flags s (s.withM f) := (memRead_core s _).kept.trans (hf _ _)

theorem stepM_kept (s : State) (f : Byte → Alu) : Kept ctl sp false s (s.stepM f) :=
  withM_kept s fun t _ => (memWrite_core t _ _).kept.trans (.but_flags rfl rfl)

theorem stepM_cy (s : State) (f : Byte → Alu) : (s.stepM f).flags.cy = s.flags.cy :=
  (congrArg Flags.cy (memRead_core s s.hl).flags :)

/-! ## What an instruction keeps -/

/-- The instructions that write the control state (10_state.md R36 to R45). -/
def writesCtl : Instr → Bool
  | .ei | .di | .hlt | .rim | .sim => true
  | _ => false

theorem kept_of {x : State} (h : Host.Outcome.next x = (.next t : Result)) (p : Kept ctl sp flags s x) :
    Kept ctl sp flags s t := Host.Outcome.next.inj h ▸ p

/-- What the three tables say an instruction does not write, it keeps, whatever disturbs it. -/
theorem exec_kept (i : Instr) (h : exec i s = .next t) :
    Kept (!writesCtl i) (!writesSp i) (decide (flagRowOf i = .unchanged)) s t := by
  cases i
  case movRR | mviR | xchg | cma | jmp | pchl | ldhi | ldsi | nop => exact kept_of h (.of_eq rfl rfl rfl)
  case movRM | lda | ldax => exact kept_of h (loadReg_kept _ _ _)
  case lhld | lhlx => exact kept_of h (loadHl_kept _ _)
  case movMR | mviM | sta | stax => exact kept_of h (memWrite_core _ _ _).kept
  case shld | shlx => exact kept_of h (storeHl_kept _ _)
  case xthl => exact kept_of h (xthl_kept _ _)
  case inp => exact kept_of h ((ioRead_core _ _).kept.trans (.of_eq rfl rfl rfl))
  case out => exact kept_of h (ioWrite_core _ _ _).kept
  case addR | adi | adcR | aci | subR | sui | sbbR | sbi | cmpR | cpi => exact kept_of h (.but_flags rfl rfl)
  case anaR | ani | xraR | xri | oraR | ori => exact kept_of h (.but_flags rfl rfl)
  case addM | adcM | subM | sbbM | cmpM | anaM | xraM | oraM =>
    exact kept_of h (withM_kept _ fun _ _ => .but_flags rfl rfl)
  case inrR | dcrR | dad | daa | rlc | rrc | ral | rar | cmc | stc => exact kept_of h (.but_flags rfl rfl)
  case inrM | dcrM => exact kept_of h (stepM_kept _ _)
  case arhl | dsub | rdel => exact kept_of h (.but_flags rfl rfl)
  case jnz | jz | jnc | jc | jpo | jpe | jp | jm | jnui | jui => exact kept_of h (jumpIf_kept _ _ _)
  case call | rst => exact kept_of h (callTo_kept _ _)
  case cnz | cz | cnc | cc | cpo | cpe | cp | cm | rstv => exact kept_of h (ite_kept (callTo_kept _ _))
  case ret => exact kept_of h (popPc_kept _)
  case rnz | rz | rnc | rc | rpo | rpe | rp | rm => exact kept_of h (ite_kept (popPc_kept _))
  case pushRp | pushPsw => exact kept_of h (.but_sp (State.push16_ctl _ _) (State.push16_flags _ _))
  case popRp => exact kept_of h (.but_sp (State.pop16_ctl _) (State.pop16_flags _))
  case popPsw => exact kept_of h ⟨fun _ => State.pop16_ctl _, nofun, nofun⟩
  case sphl => exact kept_of h (.but_sp rfl rfl)
  case lxi rp _ => cases rp with
    | bc | de | hl => exact kept_of h (.of_eq rfl rfl rfl)
    | sp => exact kept_of h (.but_sp rfl rfl)
  case inx rp | dcx rp => cases rp with
    | bc | de | hl => exact kept_of h (.but_flags rfl rfl)
    | sp => exact kept_of h ⟨fun _ => rfl, nofun, nofun⟩
  case ei | di | hlt | rim | sim => exact kept_of h (.but_ctl rfl rfl)

/-! ## Taking an interrupt -/

theorem acknowledge_kept (h : s.acknowledge = .next t) : Kept ctl false flags s t := by
  have first : Kept ctl false flags s (s.intaRead s.env.inta0).2 := (intaRead_core s _).kept
  unfold State.acknowledge at h
  dsimp only at h
  split_ifs at h
  · exact kept_of h first
  · exact kept_of h (first.trans (callTo_kept _ _))
  · exact kept_of h (((first.trans (intaRead_core _ _).kept).trans (intaRead_core _ _).kept).trans (callTo_kept _ _))

theorem enter_kept {q : Request} (h : s.enter q = .next t) : Kept ctl false flags s t := by
  cases q with
  | restart k => exact kept_of h (callTo_kept s _)
  | intr => exact acknowledge_kept h

/-! ## The table of flags (10_state.md R35) -/

/-- Each flag goes from `f` to `g` as its column of the row allows. -/
def FlagRow.Allows (row : FlagRow) (f g : Flags) : Prop :=
  row.s.Allows f.s g.s ∧ row.z.Allows f.z g.z ∧ row.ac.Allows f.ac g.ac ∧ row.p.Allows f.p g.p ∧
  row.cy.Allows f.cy g.cy ∧ row.v.Allows f.v g.v ∧ row.ui.Allows f.ui g.ui

section Rows

variable {f g : Flags}

theorem allows_unchanged (h : g = f) : FlagRow.unchanged.Allows f g := by
  subst h
  exact ⟨rfl, rfl, rfl, rfl, rfl, rfl, rfl⟩

theorem allows_all : FlagRow.all.Allows f g := ⟨trivial, trivial, trivial, trivial, trivial, trivial, trivial⟩

theorem allows_step (h : g.cy = f.cy) : FlagRow.step.Allows f g :=
  ⟨trivial, trivial, trivial, trivial, h, trivial, trivial⟩

end Rows

/-! ## The statements -/

/-- Settles O49: the five instructions that write the control state write what the table says; the others keep it. -/
theorem controlFrame : Obligations.ControlFrame := by
  intro i s t h
  cases i
  case ei | di | hlt | rim | sim => cases h; rfl
  all_goals exact (exec_kept _ h).ctl_eq rfl

/-- Settles O51: the row is read off the meaning of each instruction that writes a flag; the others keep the flags. -/
theorem flagTable : Obligations.FlagTable := by
  refine ⟨fun i s t h => ?_, fun q s t h => ?_⟩
  · change (flagRowOf i).Allows s.flags t.flags
    cases i
    case addR | addM | adi | adcR | adcM | aci | subR | subM | sui | sbbR | sbbM | sbi | cmpR | cmpM | cpi | popPsw =>
      exact allows_all
    case inrR | dcrR => cases h; exact allows_step rfl
    case inrM | dcrM => cases h; exact allows_step (stepM_cy _ _)
    case inx | dcx => cases h; exact ⟨rfl, rfl, rfl, rfl, rfl, rfl, trivial⟩
    case dad => cases h; exact ⟨rfl, rfl, rfl, rfl, trivial, trivial, trivial⟩
    case daa => exact ⟨trivial, trivial, trivial, trivial, trivial, trivial, trivial⟩
    case anaR | anaM | ani | xraR | xraM | xri | oraR | oraM | ori =>
      cases h; exact ⟨trivial, trivial, rfl, trivial, rfl, trivial, trivial⟩
    case rlc | rrc | ral | rar | cmc => cases h; exact ⟨rfl, rfl, rfl, rfl, trivial, trivial, trivial⟩
    case stc => cases h; exact ⟨rfl, rfl, rfl, rfl, rfl, trivial, trivial⟩
    case dsub => exact ⟨trivial, trivial, trivial, trivial, trivial, trivial, trivial⟩
    case arhl => cases h; exact ⟨rfl, rfl, rfl, rfl, trivial, rfl, rfl⟩
    case rdel => cases h; exact ⟨rfl, rfl, rfl, rfl, trivial, trivial, rfl⟩
    all_goals exact allows_unchanged ((exec_kept _ h).flags_eq rfl)
  · exact (enter_kept (ctl := true) h).flags_eq rfl

/-- Settles O52: an instruction that is not named keeps SP. -/
theorem stackPointerWriters : Obligations.StackPointerWriters := by
  intro i s t h hi
  exact (exec_kept i h).sp_eq (by rw [hi]; rfl)

/-! ## The history of I/O cycles (20_memory.md R61) -/

theorem Progress.filter_bus {io kind : BusCycle → Bool} (h : Progress io s t)
    (hk : ∀ c : BusCycle, kind c = true → c.isIo = true ∧ io c = false) : t.bus.filter kind = s.bus.filter kind := by
  obtain ⟨cs, hcs, hio⟩ := h.bus
  have none_new : cs.filter kind = [] := List.filter_eq_nil_iff.2 fun c hc hkc => by
    obtain ⟨is_io, not_io⟩ := hk c hkc
    exact Bool.eq_false_iff.1 not_io (hio c hc is_io)
  rw [hcs, List.filter_append, none_new, List.nil_append]

theorem isIo_of_isIoRead {c : BusCycle} (h : c.isIoRead = true) : c.isIo = true ∧ c.isIoWrite = false := by
  cases c <;> cases h
  exact ⟨rfl, rfl⟩

theorem isIo_of_isIoWrite {c : BusCycle} (h : c.isIoWrite = true) : c.isIo = true ∧ c.isIoRead = false := by
  cases c <;> cases h
  exact ⟨rfl, rfl⟩

theorem ioCyclesOf_of_isIoRead {i : Instr} {c : BusCycle} (hi : ∀ p, i ≠ .inp p) (hc : c.isIoRead = true) :
    ioCyclesOf i c = false := by
  cases i
  case inp p => exact absurd rfl (hi p)
  case out => exact (isIo_of_isIoRead hc).2
  all_goals rfl

theorem ioCyclesOf_of_isIoWrite {i : Instr} {c : BusCycle} (hi : ∀ p, i ≠ .out p) (hc : c.isIoWrite = true) :
    ioCyclesOf i c = false := by
  cases i
  case out p => exact absurd rfl (hi p)
  case inp => exact (isIo_of_isIoWrite hc).2
  all_goals rfl

/-- Settles O53: the cycles an instruction adds to the history are I/O reads for IN alone and I/O writes for OUT alone. -/
theorem ioOnlyByInAndOut : Obligations.IoOnlyByInAndOut := by
  refine ⟨fun i s t h => ⟨fun hi => ?_, fun hi => ?_⟩, fun q s t h => ?_⟩
  · exact (exec_progress i h).filter_bus fun c hc => ⟨(isIo_of_isIoRead hc).1, ioCyclesOf_of_isIoRead hi hc⟩
  · exact (exec_progress i h).filter_bus fun c hc => ⟨(isIo_of_isIoWrite hc).1, ioCyclesOf_of_isIoWrite hi hc⟩
  · have entered : Progress (fun _ => false) s t := (accept_progress s q).trans (enter_progress h)
    exact ⟨entered.filter_bus fun c hc => ⟨(isIo_of_isIoRead hc).1, rfl⟩,
      entered.filter_bus fun c hc => ⟨(isIo_of_isIoWrite hc).1, rfl⟩⟩

end Sys2Proof.Machine
end

section
/-! PROOFS. What every step keeps (10_state.md R37, R44, R46; 20_memory.md R71; 60_exceptions.md R312, R328): the masks, the
invariant, every byte where no RAM stands, and, where HOLD stops it part-way, the registers. Each rests on the ways a step can
end and on the ways an instruction can write the control state. -/

namespace Sys2Proof.Machine

variable {s t u v : State} {a : Activity}

/-! ## The ways the control state is written -/

/-- An instruction keeps the control state, or is one of the five that write it. -/
theorem exec_ctl_cases {i : Instr} (h : exec i s = .next t) :
    t.ctl = s.ctl ∨ (i = .ei ∧ t.ctl = { s.ctl with inte := true, eiPend := true }) ∨
    (i = .di ∧ t.ctl = { s.ctl with inte := false }) ∨ (i = .hlt ∧ t.ctl = { s.ctl with halted := true }) ∨
    (i = .rim ∧ t.ctl = { s.ctl with trapArmed := false }) ∨ (i = .sim ∧ t.ctl = s.ctl.afterSim s.regs.a) := by
  cases i
  case ei => cases h; exact .inr (.inl ⟨rfl, rfl⟩)
  case di => cases h; exact .inr (.inr (.inl ⟨rfl, rfl⟩))
  case hlt => cases h; exact .inr (.inr (.inr (.inl ⟨rfl, rfl⟩)))
  case rim => cases h; exact .inr (.inr (.inr (.inr (.inl ⟨rfl, rfl⟩))))
  case sim => cases h; exact .inr (.inr (.inr (.inr (.inr ⟨rfl, rfl⟩))))
  all_goals exact .inl ((exec_kept _ h).ctl_eq rfl)

/-- The entry of an interrupt has written the control state before its first cycle, and fetching writes none. -/
theorem perform_ctl_cases (h : v.perform a = .next u) :
    u.ctl = v.ctl ∨ (a = .instruction ∧
      ((v.fetchInstr.1 = .ei ∧ u.ctl = { v.ctl with inte := true, eiPend := true }) ∨
       (v.fetchInstr.1 = .di ∧ u.ctl = { v.ctl with inte := false }) ∨
       (v.fetchInstr.1 = .hlt ∧ u.ctl = { v.ctl with halted := true }) ∨
       (v.fetchInstr.1 = .rim ∧ u.ctl = { v.ctl with trapArmed := false }) ∨
       (v.fetchInstr.1 = .sim ∧ u.ctl = v.ctl.afterSim v.regs.a))) := by
  cases a with
  | entry q => exact .inl ((enter_kept (ctl := true) (flags := true) h).ctl_eq rfl)
  | instruction =>
    have written := exec_ctl_cases h
    rw [(fetchInstr_kept v).ctl, (fetchInstr_kept v).regs] at written
    exact written.imp_right fun k => ⟨rfl, k⟩

/-! ## What a boundary hands to an activity -/

theorem run_released (h : s.boundary = .run a v) : v.ctl.hlda = false := by
  rcases boundary_cases s with ⟨-, j⟩ | ⟨-, -, j⟩ | ⟨-, -, ⟨p, -, j⟩ | ⟨-, ⟨q, -, j⟩ | ⟨-, -, j⟩ | ⟨-, -, j⟩⟩⟩
  all_goals rw [j] at h; cases h
  · rfl
  · rcases q with ⟨_ | _ | _ | _⟩ | _ <;> rfl
  · rfl

/-- Neither an activity that begins nor, by the invariant, one that goes on finds EIPEND or HALTED set. -/
theorem run_eiPend_halted (inv : s.Inv) (h : s.boundary = .run a v) : v.ctl.eiPend = false ∧ v.ctl.halted = false := by
  obtain ⟨-, -, -, -, -, -, begins, goes_on⟩ := run_begins h
  by_cases hs : s.suspended = none
  · exact begins hs
  · obtain ⟨-, hei, hhalted⟩ := inv.suspended_ctl hs
    obtain ⟨kept_ei, kept_halted⟩ := goes_on hs
    exact ⟨kept_ei.trans hei, kept_halted.trans hhalted⟩

/-- It finds memory and the mark of a cut step as they were, and the registers with them. -/
theorem run_eq_sample (h : s.boundary = .run a v) : v = s.sample.setCtl v.ctl := (run_begins h).2.2.1

theorem run_whole (h : s.boundary = .run a v) : v.abandoned = s.abandoned := by
  rw [run_eq_sample h]
  exact s.sample_abandoned

theorem run_mem (h : s.boundary = .run a v) : v.mem = s.mem := by
  rw [run_eq_sample h]
  exact s.sample_mem

theorem step_over (hb : s.boundary = .run a v) (hp : v.perform a = .next u) (hu : u.abandoned = false) :
    step s = .next (u.setSuspended none) := by
  rw [step_run hb, hp, settle_over hu]

/-- An activity that is cut and not in reset was cut by HOLD. -/
theorem hold_of_cut {io : BusCycle → Bool} (p : Progress io v u) (hv : v.abandoned = false) (hu : u.abandoned = true)
    (hr : u.env.resetIn = false) : u.env.hold = true := by
  rcases p.abandoned hu with k | k | k
  · rw [hv] at k; cases k
  · rw [hr] at k; cases k
  · exact k

/-! ## The masks (R37) -/

/-- The three masks are the same. -/
def SameMasks (c d : Control) : Prop := d.m75 = c.m75 ∧ d.m65 = c.m65 ∧ d.m55 = c.m55

theorem SameMasks.of_eq {c d : Control} (h : d = c) : SameMasks c d := h ▸ ⟨rfl, rfl, rfl⟩

theorem SameMasks.trans {c d e : Control} (h : SameMasks c d) (k : SameMasks d e) : SameMasks c e :=
  ⟨k.1.trans h.1, k.2.1.trans h.2.1, k.2.2.trans h.2.2⟩

theorem sample_sameMasks (s : State) : SameMasks s.ctl s.sample.ctl := by
  rw [State.sample_ctl]
  exact ⟨rfl, rfl, rfl⟩

theorem run_sameMasks (h : s.boundary = .run a v) : SameMasks s.ctl v.ctl := by
  obtain ⟨-, -, -, m75, m65, m55, -⟩ := run_begins h
  exact ⟨m75, m65, m55⟩

theorem perform_sameMasks (h : v.perform a = .next u) :
    SameMasks v.ctl u.ctl ∨ (a = .instruction ∧ v.fetchInstr.1 = .sim) := by
  rcases perform_ctl_cases h with e | ⟨ha, ⟨-, e⟩ | ⟨-, e⟩ | ⟨-, e⟩ | ⟨-, e⟩ | ⟨hi, -⟩⟩
  · exact .inl (.of_eq e)
  · rw [e]; exact .inl ⟨rfl, rfl, rfl⟩
  · rw [e]; exact .inl ⟨rfl, rfl, rfl⟩
  · rw [e]; exact .inl ⟨rfl, rfl, rfl⟩
  · rw [e]; exact .inl ⟨rfl, rfl, rfl⟩
  · exact .inr ⟨ha, hi⟩

theorem grantBus_ctl (s : State) : s.grantBus.ctl = { s.ctl with hlda := true } := (masterWrites_core _ _).ctl

/-- Settles O50: of the ways a step ends, RESET IN alone and the end of SIM change a mask. -/
theorem masksChangeOnlyBySimOrReset : Obligations.MasksChangeOnlyBySimOrReset := by
  intro s t h
  rcases step_next h with ⟨u, -, hr, p⟩ | ⟨rfl, -⟩ | ⟨rfl, -⟩ | ⟨a, v, u, hb, hu, -, ⟨-, -, rfl⟩ | ⟨-, rfl⟩⟩
  · exact .inr (.inr (p.resetIn hr))
  · have granted : SameMasks s.sample.ctl s.sample.grantBus.ctl := by rw [grantBus_ctl]; exact ⟨rfl, rfl, rfl⟩
    exact .inl ((sample_sameMasks s).trans granted)
  · exact .inl (sample_sameMasks s)
  · exact .inl ((run_sameMasks hb).trans ⟨rfl, rfl, rfl⟩)
  · rcases perform_sameMasks hu with same | ⟨rfl, hsim⟩
    · exact .inl ((run_sameMasks hb).trans same)
    · exact .inr (.inl ⟨v, hb, hsim⟩)

/-! ## The invariant -/

/-- EIPEND is set by EI alone, which sets INTE with it. -/
theorem perform_eiPend (h : v.perform a = .next u) (hei : v.ctl.eiPend = false) (k : u.ctl.eiPend = true) :
    v.fetchInstr.1 = .ei ∧ u.ctl = { v.ctl with inte := true, eiPend := true } := by
  rcases perform_ctl_cases h with e | ⟨-, e | ⟨-, e⟩ | ⟨-, e⟩ | ⟨-, e⟩ | ⟨-, e⟩⟩
  case inr.inl => exact e
  all_goals rw [e] at k; exact absurd (hei.symm.trans k) Bool.false_ne_true

theorem perform_hlda (h : v.perform a = .next u) : u.ctl.hlda = v.ctl.hlda := by
  rcases perform_ctl_cases h with e | ⟨-, ⟨-, e⟩ | ⟨-, e⟩ | ⟨-, e⟩ | ⟨-, e⟩ | ⟨-, e⟩⟩
  all_goals rw [e]
  rfl

theorem inv_reset : State.reset.Inv where
  memory := Memory.wf_reset
  whole := rfl
  eiPend_inte := nofun
  eiPend_running := nofun
  hlda_hold := nofun
  suspended_ctl h := absurd rfl h

theorem inv_resetIn (h : u.mem.wf = true) : u.resetIn.Inv where
  memory := h
  whole := rfl
  eiPend_inte := nofun
  eiPend_running := nofun
  hlda_hold := nofun
  suspended_ctl h := absurd rfl h

/-- Sampling latches edges and takes a new sample; the invariant needs of the old one only that HLDA wants HOLD. -/
theorem inv_setCtl_sample (inv : s.Inv) {hlda : Bool} (hh : hlda = true → s.sample.env.hold = true)
    (hs : s.suspended ≠ none → hlda = true) : (s.sample.setCtl { s.sample.ctl with hlda := hlda }).Inv where
  memory := by simpa using inv.memory
  whole := by simpa using inv.whole
  eiPend_inte := by simpa [State.sample_ctl] using inv.eiPend_inte
  eiPend_running := by simpa [State.sample_ctl] using inv.eiPend_running
  hlda_hold := hh
  suspended_ctl h := by
    have hs' : s.suspended ≠ none := by simpa using h
    simpa [State.sample_ctl, hs hs'] using (inv.suspended_ctl hs').2

theorem inv_masterWrites (inv : s.Inv) (ws : List (Word × Byte)) : (s.masterWrites ws).Inv := by
  rw [masterWrites_whole]
  exact { inv with memory := masterWrites_wf ws inv.memory }

theorem inv_suspend (hm : u.mem.wf = true) (hh : u.env.hold = true) (hei : v.ctl.eiPend = false)
    (hhalted : v.ctl.halted = false) : (v.suspend a u).Inv where
  memory := hm
  whole := rfl
  eiPend_inte k := absurd (hei.symm.trans k) Bool.false_ne_true
  eiPend_running _ := hhalted
  hlda_hold _ := hh
  suspended_ctl _ := ⟨rfl, hei, hhalted⟩

theorem inv_over (hm : u.mem.wf = true) (hw : u.abandoned = false) (hu : v.perform a = .next u)
    (hei : v.ctl.eiPend = false) (hhalted : v.ctl.halted = false) (hh : v.ctl.hlda = false) :
    (u.setSuspended none).Inv where
  memory := hm
  whole := hw
  eiPend_inte k := by rw [State.setSuspended_ctl, (perform_eiPend hu hei k).2]
  eiPend_running k := by rw [State.setSuspended_ctl, (perform_eiPend hu hei k).2]; exact hhalted
  hlda_hold k := absurd ((perform_hlda hu).trans hh ▸ k) Bool.false_ne_true
  suspended_ctl h := absurd rfl h

/-- Settles O54: every field of the reset state is literal. -/
theorem invariantAtReset : Obligations.InvariantAtReset := inv_reset

/-- Settles O55: the invariant holds at each of the ways a step can end. -/
theorem invariantKept : Obligations.InvariantKept := by
  intro s t inv h
  rcases step_next h with ⟨u, rfl, -, p⟩ | ⟨rfl, hd⟩ | ⟨rfl, -, hs⟩ | ⟨a, v, u, hb, hu, p, ending⟩
  · exact inv_resetIn (p.wf (s.sample_mem ▸ inv.memory))
  · exact inv_masterWrites (inv_setCtl_sample inv (fun _ => hd) fun _ => rfl) _
  · exact inv_setCtl_sample inv nofun (absurd hs)
  · obtain ⟨hei, hhalted⟩ := run_eiPend_halted inv hb
    have hm : u.mem.wf = true := p.wf (run_mem hb ▸ inv.memory)
    rcases ending with ⟨hcut, hr, rfl⟩ | ⟨hw, rfl⟩
    · exact inv_suspend hm (hold_of_cut p (run_whole hb ▸ inv.whole) hcut hr) hei hhalted
    · exact inv_over hm hw hu hei hhalted (run_released hb)

/-! ## Memory and the map (R71) -/

/-- Settles O56: what comes after the sampling keeps the map, and every byte where no RAM stands. -/
theorem onlyRamChanges : Obligations.OnlyRamChanges := by
  intro s t h
  have unchanged {u : State} (p : Progress (fun _ => true) s.sample u) :
      u.memMap = s.memMap ∧ ∀ a, ¬ s.Writable a → u.peek a = s.peek a := by
    refine ⟨p.memMap.trans s.sample_memMap, fun a ha => ?_⟩
    rw [p.fixed a (by rwa [State.Writable, State.sample_kindAt]), State.sample_peek]
  rcases step_next h with ⟨u, rfl, -, p⟩ | ⟨rfl, -⟩ | ⟨rfl, -⟩ | ⟨a, v, u, hb, -, p, ending⟩
  · exact (unchanged p :)
  · exact unchanged (grantBus_progress _)
  · exact unchanged (releaseBus_progress _)
  · have through := unchanged ((run_progress hb).trans p)
    rcases ending with ⟨-, -, rfl⟩ | ⟨-, rfl⟩
    · exact ⟨(run_progress (io := fun _ => true) hb).memMap.trans s.sample_memMap, through.2⟩
    · exact through

/-! ## HOLD (R328) -/

theorem memorySystemWrite_peek_other {a b : Word} (x : Byte) (h : b ≠ a) :
    (s.memorySystemWrite a x).peek b = s.peek b := by
  by_cases hw : s.Writable a
  · rw [memorySystemWrite_ram x hw, State.peek_setMem_write_other s x h]
  · rw [memorySystemWrite_dropped x hw]

theorem masterWrites_peek_other {b : Word} {ws : List (Word × Byte)} (h : ∀ x, (b, x) ∉ ws) :
    (s.masterWrites ws).peek b = s.peek b := by
  induction ws generalizing s with
  | nil => rfl
  | cons w ws ih =>
    have first : b ≠ w.1 := fun e => h w.2 (e ▸ List.mem_cons_self)
    exact (ih fun x hx => h x (List.mem_cons_of_mem w hx)).trans (memorySystemWrite_peek_other w.2 first)

theorem step_of_hold (hr : s.sample.env.resetIn = false) (hh : s.sample.env.hold = true) :
    step s = .next s.sample.grantBus := by
  rcases boundary_cases s with ⟨k, -⟩ | ⟨-, -, j⟩ | ⟨-, k, -⟩
  · rw [hr] at k; cases k
  · exact step_done j
  · rw [hh] at k; cases k

theorem grantBus_whole (s : State) :
    s.grantBus = (s.setCtl { s.ctl with hlda := true }).setMem s.grantBus.mem := masterWrites_whole _ _

/-- Settles O59: a hold at a boundary is the writes of the other master; a step that ends part-way was stopped by a hold, and
shows what its activity began in. -/
theorem holdGrantsBus : Obligations.HoldGrantsBus := by
  refine ⟨fun s hr hh => ⟨_, step_of_hold hr hh, grantBus_whole s.sample, fun b hb => ?_⟩, fun s t hw h ht => ?_⟩
  · exact (masterWrites_peek_other hb).trans (s.sample_peek b)
  · rcases step_next h with ⟨u, rfl, -⟩ | ⟨rfl, hh⟩ | ⟨rfl, -, hs⟩ | ⟨a, v, u, hb, -, p, ⟨hcut, hr, rfl⟩ | ⟨-, rfl⟩⟩
    · exact absurd rfl ht
    · rw [grantBus_whole]
      exact ⟨rfl, hh, s.sample_regs, s.sample_sp, s.sample_pc, s.sample_flags⟩
    · exact absurd (s.sample_suspended.trans hs) ht
    · have hold : u.env.hold = true := hold_of_cut p ((run_whole hb).trans hw) hcut hr
      refine ⟨rfl, hold, ?_⟩
      rw [run_eq_sample hb]
      exact ⟨s.sample_regs, s.sample_sp, s.sample_pc, s.sample_flags⟩
    · exact absurd rfl ht

/-! ## The delay of EI (R44, R312) -/

theorem trap_of_request_of_eiPend {q : Request} (hei : s.ctl.eiPend = true) (h : s.request = some q) :
    q = .restart .trap := by
  unfold State.request at h
  simp only [hei, Bool.not_true, Bool.and_false, Bool.false_eq_true, if_false] at h
  split at h
  · cases h; rfl
  · cases h

/-- Settles O47: EIPEND bars the requests after TRAP; only EI sets it, in a step in which nothing else cuts it once fetched. -/
theorem eiDelay : Obligations.EiDelay := by
  refine ⟨fun s q => trap_of_request_of_eiPend, fun s v t inv hb h ht => ?_, fun s v hb hi hw => ?_⟩
  · have hei := (run_eiPend_halted inv hb).1
    obtain ⟨u, hu, -, ⟨-, -, rfl⟩ | ⟨-, -, rfl⟩ | ⟨-, rfl⟩⟩ := run_next hb h
    · cases ht
    · exact absurd (hei.symm.trans ht) Bool.false_ne_true
    · exact (perform_eiPend hu hei ht).1
  · have hp : v.perform .instruction =
        .next (v.fetchInstr.2.setCtl { v.fetchInstr.2.ctl with inte := true, eiPend := true }) := by
      rw [State.perform, hi]
      rfl
    refine ⟨_, step_over hb hp hw, ?_⟩
    rw [State.setSuspended_ctl, State.setCtl_ctl, (fetchInstr_kept v).ctl]

end Sys2Proof.Machine
end

section
/-! PROOFS. Requests (60_exceptions.md R303 to R312, R318 to R324): what sampling latches, which request is taken, when its
acknowledge is refused, and what RIM reports after a TRAP. -/

namespace Sys2Proof.Machine

variable {s t u v : State}

/-! ## Sampling (R303, R304, R311) -/

theorem sample_of_cons {e : Sample} {es : List Sample} (h : s.inputs = e :: es) :
    s.sample.env = e ∧ s.sample.inputs = es := by
  simp only [State.sample, h]
  exact ⟨rfl, rfl⟩

theorem sample_of_nil (h : s.inputs = []) : s.sample.env = s.env.held ∧ s.sample.inputs = [] := by
  simp only [State.sample, h]
  exact ⟨rfl, h⟩

/-- The two latches take the edges of the new sample, and nothing else changes but the sample. -/
theorem sample_latches {trapEdge rst75Edge : Bool} (ht : s.sample.env.trapEdge = trapEdge)
    (hr : s.sample.env.rst75Edge = rst75Edge) :
    (s.sample.ctl.trapL = true ↔ s.ctl.trapL = true ∨ trapEdge = true) ∧
    (s.sample.ctl.r75 = true ↔ s.ctl.r75 = true ∨ rst75Edge = true) ∧
    s.sample = ((s.setEnv s.sample.env).setInputs s.sample.inputs).setCtl
      { s.ctl with trapL := s.sample.ctl.trapL, r75 := s.sample.ctl.r75 } := by
  have hc := s.sample_ctl
  rw [ht, hr] at hc
  refine ⟨?_, ?_, ?_⟩
  · rw [hc, Bool.or_eq_true]
  · rw [hc, Bool.or_eq_true]
  · conv => lhs; rw [sample_whole, ht, hr]
    rw [hc]

/-! ## Priority (R310) -/

/-- A maskable request is looked at only where INTE is set and no EI was the last instruction (R312). -/
def State.Enabled (s : State) : Prop := s.ctl.inte = true ∧ s.ctl.eiPend = false

/-- The condition on which a request is present (R303 to R307). -/
def State.Requested (s : State) : Request → Prop
  | .restart .trap => s.ctl.trapL = true ∧ s.env.trap = true
  | .restart .rst75 => s.Enabled ∧ s.ctl.r75 = true ∧ s.ctl.m75 = false
  | .restart .rst65 => s.Enabled ∧ s.env.rst65 = true ∧ s.ctl.m65 = false
  | .restart .rst55 => s.Enabled ∧ s.env.rst55 = true ∧ s.ctl.m55 = false
  | .intr => s.Enabled ∧ s.env.intr = true

/-- The request is the first one present, and there is none if none is. -/
theorem request_cases (s : State) :
    (s.Requested (.restart .trap) ∧ s.request = some (.restart .trap)) ∨
    (¬ s.Requested (.restart .trap) ∧
      ((s.Requested (.restart .rst75) ∧ s.request = some (.restart .rst75)) ∨
       (¬ s.Requested (.restart .rst75) ∧
         ((s.Requested (.restart .rst65) ∧ s.request = some (.restart .rst65)) ∨
          (¬ s.Requested (.restart .rst65) ∧
            ((s.Requested (.restart .rst55) ∧ s.request = some (.restart .rst55)) ∨
             (¬ s.Requested (.restart .rst55) ∧
               ((s.Requested .intr ∧ s.request = some .intr) ∨ (¬ s.Requested .intr ∧ s.request = none))))))))) := by
  simp only [State.request, State.Requested, State.Enabled, Bool.and_eq_true, Bool.not_eq_true']
  by_cases he : s.ctl.inte = true ∧ s.ctl.eiPend = false
  · simp only [he, and_self, true_and, if_true]
    split_ifs <;> simp [*]
  · simp only [he, false_and, if_false]
    split_ifs <;> simp [*]

/-- Settles O43: sampling latches the edges of the sample it takes; the first request present is the one taken. -/
theorem requestPriority : Obligations.RequestPriority := by
  intro s latched trap enabled rst75 rst65 rst55 intr
  refine ⟨fun e es h => ?_, fun h => ?_, ?_⟩
  · obtain ⟨he, hes⟩ := sample_of_cons h
    exact ⟨sample_latches (by rw [he]) (by rw [he]), he, hes⟩
  · obtain ⟨he, hes⟩ := sample_of_nil h
    exact ⟨sample_latches (by rw [he]; rfl) (by rw [he]; rfl), hes, he⟩
  · change (_ ↔ s.Requested (.restart .trap)) ∧ (_ ↔ s.Requested (.restart .rst75) ∧ ¬ s.Requested (.restart .trap)) ∧
      (_ ↔ s.Requested (.restart .rst65) ∧ ¬ s.Requested (.restart .rst75) ∧ ¬ s.Requested (.restart .trap)) ∧
      (_ ↔ s.Requested (.restart .rst55) ∧ ¬ s.Requested (.restart .rst65) ∧ ¬ s.Requested (.restart .rst75) ∧
        ¬ s.Requested (.restart .trap)) ∧
      (_ ↔ s.Requested .intr ∧ ¬ s.Requested (.restart .rst55) ∧ ¬ s.Requested (.restart .rst65) ∧
        ¬ s.Requested (.restart .rst75) ∧ ¬ s.Requested (.restart .trap))
    rcases request_cases s with ⟨ht, e⟩ | ⟨ht, ⟨h75, e⟩ | ⟨h75, ⟨h65, e⟩ | ⟨h65, ⟨h55, e⟩ | ⟨h55, ⟨hi, e⟩ | ⟨hi, e⟩⟩⟩⟩⟩
    all_goals simp [*]

/-! ## The acknowledge of INTR (R318 to R321) -/

/-- Nothing cuts the next machine cycle. -/
theorem beforeCycle_abandoned (s : State) : s.beforeCycle.abandoned = false ↔
    s.abandoned = false ∧ s.env.cycles.head? ≠ some .resetIn ∧ ∀ ws, s.env.cycles.head? ≠ some (.hold ws) := by
  cases ha : s.abandoned with
  | true => simp [State.beforeCycle, ha]
  | false =>
    rcases hc : s.env.cycles with _ | ⟨_ | ws | _, es⟩
    · simp [State.beforeCycle, ha, hc]
    · simp [beforeCycle_undisturbed ha hc, ha]
    · simp [beforeCycle_hold ha hc]
    · simp [beforeCycle_resetIn ha hc]

theorem record_abandoned (s : State) (c : BusCycle) : (s.record c).abandoned = s.abandoned := by
  unfold State.record
  split <;> rfl

/-- Not stopped before, the first acknowledge cycle gives the byte that the device supplies. -/
theorem intaRead_fresh (x : Byte) (h : s.suspended = none) : (s.intaRead x).1 = x ∧
    (s.intaRead x).2.abandoned = s.beforeCycle.abandoned := by
  rw [State.intaRead, madeOr_fresh _ h]
  exact ⟨rfl, record_abandoned _ _⟩

/-- A byte that names no instruction of R319 and R320: neither RST n nor CALL. -/
def IsOther (op : Byte) : Prop := (∀ n : BitVec 3, op ≠ 0b11#2 ++ n ++ 0b111#3) ∧ op ≠ 0xCD#8

theorem rst_byte_of_fixed_bits : ∀ op : Byte, op &&& 0xC7#8 = 0xC7#8 → op = 0b11#2 ++ op.extractLsb' 3 3 ++ 0b111#3 := by
  decide

/-- RST n is told by its five fixed bits. -/
theorem isOther_iff (op : Byte) : IsOther op ↔ ¬ op &&& 0xC7#8 = 0xC7#8 ∧ op ≠ 0xCD#8 := by
  refine and_congr_left fun _ => ⟨fun h fixed => ?_, fun h n e => ?_⟩
  · exact h _ (rst_byte_of_fixed_bits op fixed)
  · exact h (e ▸ (rst_byte_fields n).1)

/-- The acknowledge is refused exactly where its first cycle is made and gives another byte. -/
theorem acknowledge_refused {r : Refusal} : s.acknowledge = .refused r ↔
    (s.intaRead s.env.inta0).2.abandoned = false ∧ IsOther (s.intaRead s.env.inta0).1 ∧
    r = .acknowledgedOther (s.intaRead s.env.inta0).1 := by
  rw [isOther_iff]
  unfold State.acknowledge
  dsimp only
  split_ifs with hcut hrst hcall
  · simp [hcut]
  · simp [hrst]
  · simp [hcall]
  · simp [hcut, hrst, hcall, eq_comm]

theorem acknowledge_refused_fresh {r : Refusal} (h : s.suspended = none) : s.acknowledge = .refused r ↔
    (s.abandoned = false ∧ s.env.cycles.head? ≠ some .resetIn ∧ ∀ ws, s.env.cycles.head? ≠ some (.hold ws)) ∧
    IsOther s.env.inta0 ∧ r = .acknowledgedOther s.env.inta0 := by
  obtain ⟨gives, cut⟩ := intaRead_fresh s.env.inta0 h
  rw [acknowledge_refused, gives, cut, beforeCycle_abandoned]

theorem enter_refused {q : Request} {r : Refusal} : s.enter q = .refused r ↔ q = .intr ∧ s.acknowledge = .refused r := by
  cases q with
  | restart k => simp [State.enter]
  | intr => simp [State.enter]

/-- Of the ways a boundary can end, only the entry of an interrupt can be refused. -/
theorem step_refused {r : Refusal} : step s = .refused r ↔
    ∃ v, s.boundary = .run (.entry .intr) v ∧ v.acknowledge = .refused r := by
  constructor
  · intro h
    cases hb : s.boundary with
    | done t => rw [step_done hb] at h; cases h
    | run a v =>
      rw [step_run hb, settle_refused] at h
      cases a with
      | entry q =>
        obtain ⟨rfl, h⟩ := enter_refused.1 h
        exact ⟨v, rfl, h⟩
      | instruction =>
        obtain ⟨t, ht⟩ := exec_next v.fetchInstr.1 v.fetchInstr.2
        cases ht.symm.trans h
  · rintro ⟨v, hb, h⟩
    rw [step_run hb, settle_refused]
    exact h

/-- Where nothing had been stopped, the boundary enters INTR where it is the request taken. -/
theorem boundary_intr (hs : s.suspended = none) : s.boundary = .run (.entry .intr) v ↔
    s.sample.env.resetIn = false ∧ s.sample.env.hold = false ∧ s.sample.releaseBus.request = some .intr ∧
    v = s.sample.releaseBus.accept .intr := by
  constructor
  · intro h
    rcases boundary_cases s with ⟨-, j⟩ | ⟨-, -, j⟩ | ⟨hr, hd, ⟨p, hp, -⟩ | ⟨-, ⟨q, hq, j⟩ | ⟨-, -, j⟩ | ⟨-, -, j⟩⟩⟩
    case inr.inr.inl => rw [hs] at hp; cases hp
    all_goals rw [j] at h; cases h
    exact ⟨hr, hd, hq, rfl⟩
  · rintro ⟨hr, hd, hq, rfl⟩
    exact boundary_takes hr hd hq hs

/-- Settles O46: there is no fault to end in, and the one refusal is that of a byte acknowledged. -/
theorem stepOutcomes : Obligations.StepOutcomes := by
  intro s
  refine ⟨nofun, fun r h => ?_, fun hs r => ?_⟩
  · obtain ⟨v, -, h⟩ := step_refused.1 h
    obtain ⟨-, other, hr⟩ := acknowledge_refused.1 h
    exact ⟨_, hr, other⟩
  · have fresh : (s.sample.releaseBus.accept .intr).suspended = none := s.sample_suspended.trans hs
    rw [step_refused]
    constructor
    · rintro ⟨v, hb, h⟩
      obtain ⟨hr, hd, hq, rfl⟩ := (boundary_intr hs).1 hb
      obtain ⟨⟨hw, noReset, noHold⟩, ⟨notRst, notCall⟩, e⟩ := (acknowledge_refused_fresh fresh).1 h
      exact ⟨hr, hd, hq, hw, noReset, noHold, notRst, notCall, e⟩
    · rintro ⟨hr, hd, hq, hw, noReset, noHold, notRst, notCall, e⟩
      exact ⟨_, (boundary_intr hs).2 ⟨hr, hd, hq, rfl⟩,
        (acknowledge_refused_fresh fresh).2 ⟨⟨hw, noReset, noHold⟩, ⟨notRst, notCall⟩, e⟩⟩

/-! ## RIM after a TRAP (R45, R324) -/

/-- Bit 3 of what RIM loads, and what it leaves of the control state. -/
theorem rim_reports (s : State) : ∃ t, exec .rim s = .next t ∧
    t.regs.a.getLsbD 3 = (if s.ctl.trapArmed = true then s.ctl.trapSaved else s.ctl.inte) ∧
    t.ctl = { s.ctl with trapArmed := false } :=
  ⟨_, exec_rim s, rimByte_getLsbD _ _ _ _ _ _ _ _ 3, rfl⟩

/-- Settles O48: taking the TRAP saved INTE, cleared it and armed TRAPIE, which the first RIM disarms. -/
theorem rimAfterTrap : Obligations.RimAfterTrap := by
  intro s u hr hh hq h
  obtain ⟨t, ht, -, -, hctl, -⟩ := restartEntry s .trap hr hh hq h
  obtain ⟨t1, ht1, first, hctl1⟩ := rim_reports t
  obtain ⟨t2, ht2, second, -⟩ := rim_reports t1
  refine ⟨t, t1, t2, ht, ht1, ht2, ?_, ?_⟩
  · rw [first, hctl]
    simp [u]
  · rw [second, hctl1, hctl]
    rfl

end Sys2Proof.Machine
end

section
/-! PROOFS. Instructions one after another: what a store and a push leave for the next read (20_memory.md R64, R78; 43_branch.md
R233; 10_state.md R28), a decimal addition (41_arithmetic.md R162), and rotates through a full turn (42_logical.md R183, R185;
45_extended.md R278). -/

namespace Sys2Proof.Machine

variable {s t u : State}

/-! ## What was stored is read -/

theorem seen_of_stored {a : Word} {x : Byte} (h : ByteStored s t a x) (hm : t.memMap = s.memMap) (hw : s.Writable a) :
    t.seen a = x := by
  have populated : t.Populated a := .inl ((kindAt_of_memMap hm a).trans hw)
  rw [seen_populated populated, h.1 hw]

theorem seen16_of_stored {a : Word} {hi lo : Byte} (hlo : ByteStored s t a lo) (hhi : ByteStored s t (a + 1) hi)
    (hm : t.memMap = s.memMap) (hw : s.Writable a) (hw' : s.Writable (a + 1)) : t.seen16 a = ofBytes hi lo := by
  rw [State.seen16, seen_of_stored hlo hm hw, seen_of_stored (t := t.afterRead a) hhi hm hw']

/-- A pop reads the two bytes of a push from where they were written. -/
theorem seen16_of_pushed {x : Word} (h : Pushed s t x) (hm : t.memMap = s.memMap) (hw : s.Writable (s.sp - 1))
    (hw' : s.Writable (s.sp - 2)) : t.seen16 t.sp = x := by
  obtain ⟨hhi, hlo, -, hsp, -⟩ := h
  have next : s.sp - 1 = s.sp - 2 + 1 := by bv_omega
  rw [next] at hhi hw
  rw [hsp, seen16_of_stored hlo hhi hm hw' hw, ofBytes_hiByte_loByte]

theorem word_sub_two_add_two (a : Word) : a - 2 + 2 = a := by bv_omega

/-- Settles O11: each byte stays at its address until it is read, as data or as an opcode. -/
theorem storesAreSeen : Obligations.StoresAreSeen := by
  refine ⟨fun s w h hw hw' => ?_, fun s x h hpc hw => ?_⟩
  · obtain ⟨t, ht, hl, hh, -⟩ := storesHl_of_exec h (exec_shld w s)
    have p := exec_progress _ ht
    have ht' : t.Quiet := p.quiet_all h
    obtain ⟨lower, hlower, loaded_l, -⟩ := loadsByte_of_exec ht' (exec_lda w t)
    obtain ⟨upper, hupper, loaded_h, -⟩ := loadsByte_of_exec ht' (exec_lda (w + 1) t)
    exact ⟨t, lower, upper, ht, hlower, hupper, loaded_l.1.trans (seen_of_stored hl p.memMap hw),
      loaded_h.1.trans (seen_of_stored hh p.memMap hw')⟩
  · have stored := memWrite_stored (s.pair .hl) x h
    rw [hpc] at stored
    have populated : (s.memWrite s.pc x).Populated (s.memWrite s.pc x).pc := by
      rw [State.memWrite_pc]
      exact .inl ((State.memWrite_kindAt ..).trans hw)
    refine ⟨_, exec_mviM x s, ?_⟩
    rw [hpc, fetchByte_quiet _ (quiet_memWrite _ _ h) populated, State.memWrite_pc]
    exact stored.1 hw

/-- Settles O29: RET pops the word that CALL pushed, and neither touches anything else. -/
theorem callThenReturn : Obligations.CallThenReturn := by
  intro s w h hw hw'
  have popped : (s.callTo w).seen16 (s.callTo w).sp = s.pc :=
    seen16_of_pushed (callTo_pushed w h) (s.push16_memMap s.pc) hw hw'
  refine ⟨_, _, exec_call w s, exec_ret (quiet_callTo w h), rfl, popped, word_sub_two_add_two s.sp, ?_, ?_, ?_⟩
  · exact s.push16_regs s.pc
  · exact s.push16_flags s.pc
  · exact s.push16_ctl s.pc

theorem ofByte_toByte (f : Flags) : Flags.ofByte f.toByte = f := by
  simp only [Flags.ofByte, toByte_getLsbD]
  rfl

/-- Settles O32: POP PSW takes apart the word that PUSH PSW put together, whatever A and the flags hold meanwhile. -/
theorem flagByteRoundTrip : Obligations.FlagByteRoundTrip := by
  intro s x f h hw hw'
  have popped : (s.push16 (ofBytes s.regs.a s.flags.toByte)).seen16 (s.sp - 2) = ofBytes s.regs.a s.flags.toByte :=
    seen16_of_pushed (push16_pushed _ h) (s.push16_memMap _) hw hw'
  have quiet : (((s.push16 (ofBytes s.regs.a s.flags.toByte)).setRegs x).setFlags f).Quiet := quiet_push16 _ h
  refine ⟨_, _, exec_pushPsw s, exec_popPsw quiet, ?_, ?_, word_sub_two_add_two s.sp⟩
  · have low := congrArg loByte popped
    rw [loByte_seen16, loByte_ofBytes] at low
    exact (congrArg Flags.ofByte low).trans (ofByte_toByte s.flags)
  · have high := congrArg hiByte popped
    rw [hiByte_seen16, hiByte_ofBytes] at high
    exact congrArg (fun a => { x with a := a }) high

/-! ## Decimal addition (R162) -/

/-- One decimal digit of a sum, with the carry into it. -/
def digitSum (x y carry : Nat) : Nat := (x + y + carry) % 10

/-- The carry out of a decimal digit of a sum. -/
def digitCarry (x y carry : Nat) : Nat := (x + y + carry) / 10

/-- The two corrections turn the binary sum of two packed-BCD bytes into the digits of the decimal one. -/
theorem bcd_digits {a1 a0 b1 b0 : Nat} (ha1 : a1 ≤ 9) (ha0 : a0 ≤ 9) (hb1 : b1 ≤ 9) (hb0 : b0 ≤ 9) {r : Nat}
    (hr : r = (16 * a1 + a0 + (16 * b1 + b0)) % 256) :
    (r + (if 9 < r % 16 ∨ 16 ≤ a0 + b0 then 6 else 0) +
      (if 0x99 < r ∨ 256 ≤ 16 * a1 + a0 + (16 * b1 + b0) then 0x60 else 0)) % 256 =
      16 * digitSum a1 b1 (digitCarry a0 b0 0) + digitSum a0 b0 0 ∧
    (0x99 < r ∨ 256 ≤ 16 * a1 + a0 + (16 * b1 + b0) ↔ digitCarry a1 b1 (digitCarry a0 b0 0) = 1) := by
  unfold digitSum digitCarry
  rcases Nat.lt_or_ge (a0 + b0) 10 with hl | hl
  · have hc : (a0 + b0 + 0) / 10 = 0 := by omega
    rw [hc]
    rcases Nat.lt_or_ge (a1 + b1) 10 with hh | hh <;> split_ifs <;> omega
  · have hc : (a0 + b0 + 0) / 10 = 1 := by omega
    rw [hc]
    rcases Nat.lt_or_ge (a1 + b1 + 1) 10 with hh | hh <;> split_ifs <;> omega

theorem byte_digits (a : Byte) : 16 * (a.toNat / 16) + a.toNat % 16 = a.toNat := Nat.div_add_mod _ _

/-- Settles O19: DAA corrects the binary sum by the half-carry and the carry that ADI left. -/
theorem decimalAddition : Obligations.DecimalAddition := by
  intro s x ⟨ha1, ha0⟩ ⟨hx1, hx0⟩
  obtain ⟨t, ht, ⟨⟨hr, -, hac, -⟩, hcy⟩, -⟩ := accumulates_add rfl (exec_adi x s)
  obtain ⟨-, u, hu, hd, -, hcy', -⟩ := decimalAdjust_holds t
  obtain ⟨digits, carry⟩ := bcd_digits ha1 ha0 hx1 hx0 (r := t.regs.a.toNat) (by rw [byte_digits, byte_digits]; exact hr)
  rw [byte_digits, byte_digits] at digits carry
  simp only [hac, hcy, Nat.add_zero] at hd hcy'
  rw [digits] at hd
  rw [carry] at hcy'
  refine ⟨t, u, ht, hu, ?_, ?_, ?_⟩
  · unfold IsBcd; rw [hd]; unfold digitSum; omega
  · unfold bcdValue; rw [hd]; unfold digitSum digitCarry; omega
  · rw [hcy']; unfold bcdValue digitCarry; omega

/-! ## Full turns (R183, R185, R278) -/

section Ring

variable {w : Nat}

theorem getLsbD_rotateLeft_one (x : BitVec w) {k : Nat} (hk : k < w) :
    (x.rotateLeft 1).getLsbD k = x.getLsbD ((k + (w - 1)) % w) := by
  rcases Nat.eq_or_lt_of_le (Nat.succ_le_of_lt (Nat.zero_lt_of_lt hk)) with rfl | hw
  · obtain rfl : k = 0 := by omega
    simp
  · rw [BitVec.getLsbD_rotateLeft, Nat.mod_eq_of_lt hw]
    cases k with
    | zero => simp [Nat.mod_eq_of_lt (show w - 1 < w by omega)]
    | succ k =>
      have back : (k + 1 + (w - 1)) % w = k := by
        rw [show k + 1 + (w - 1) = k + w by omega, Nat.add_mod_right, Nat.mod_eq_of_lt (by omega)]
      simp [back, hk]

theorem getLsbD_iterate_rotateLeft_one (n : Nat) (x : BitVec w) {k : Nat} (hk : k < w) :
    ((fun y : BitVec w => y.rotateLeft 1)^[n] x).getLsbD k = x.getLsbD ((k + n * (w - 1)) % w) := by
  induction n generalizing x with
  | zero => simp [Nat.mod_eq_of_lt hk]
  | succ n ih =>
    rw [Function.iterate_succ_apply, ih, getLsbD_rotateLeft_one x (Nat.mod_lt _ (Nat.zero_lt_of_lt hk)), Nat.mod_add_mod,
      Nat.succ_mul, Nat.add_assoc]

/-- A ring of `w` bits comes back after `w` places. -/
theorem iterate_rotateLeft_one (x : BitVec w) : (fun y : BitVec w => y.rotateLeft 1)^[w] x = x := by
  apply BitVec.eq_of_getLsbD_eq
  intro k hk
  rw [getLsbD_iterate_rotateLeft_one w x hk, Nat.add_mul_mod_self_left, Nat.mod_eq_of_lt hk]

/-- A rotate through the carry turns the ring of the word with the carry above it. -/
theorem cons_shiftConcat (x : BitVec (w + 1)) (c : Bool) :
    BitVec.cons x.msb (x.shiftConcat c) = (BitVec.cons c x).rotateLeft 1 := by
  apply BitVec.eq_of_getLsbD_eq
  intro k hk
  rw [getLsbD_rotateLeft_one _ hk, BitVec.getLsbD_cons, BitVec.getLsbD_cons, BitVec.getLsbD_shiftConcat]
  cases k with
  | zero => simp
  | succ k =>
    have back : (k + 1 + (w + 1)) % (w + 1 + 1) = k := by
      rw [show k + 1 + (w + 1) = k + (w + 1 + 1) by omega, Nat.add_mod_right, Nat.mod_eq_of_lt (by omega)]
    rw [show w + 1 + 1 - 1 = w + 1 from rfl, back, if_neg (by omega : k ≠ w + 1)]
    by_cases top : k = w
    · simp [top, BitVec.msb_eq_getLsbD_last]
    · simp [top, show k + 1 < w + 1 by omega]

end Ring

variable {s : State} {i : Instr} {w : Nat}

/-- An instruction that turns a ring of `w` bits of the state by one place restores it in `w` executions, with what else it
keeps. -/
theorem execTimes_full_turn {α : Type} {rest : State → α} {ring : State → BitVec w}
    (h : ∀ s, ∃ t, exec i s = .next t ∧ rest t = rest s ∧ ring t = (ring s).rotateLeft 1) (s : State) :
    ∃ t, execTimes i w s = .next t ∧ rest t = rest s ∧ ring t = ring s := by
  have turns (n : Nat) (s : State) : ∃ t, execTimes i n s = .next t ∧ rest t = rest s ∧
      ring t = (fun y : BitVec w => y.rotateLeft 1)^[n] (ring s) := by
    induction n generalizing s with
    | zero => exact ⟨s, rfl, rfl, rfl⟩
    | succ n ih =>
      obtain ⟨u, hu, rest_u, ring_u⟩ := h s
      obtain ⟨t, ht, rest_t, ring_t⟩ := ih u
      refine ⟨t, ?_, rest_t.trans rest_u, ?_⟩
      · rw [execTimes, hu]
        exact ht
      · rw [ring_t, ring_u, Function.iterate_succ_apply]
  obtain ⟨t, ht, rest_t, ring_t⟩ := turns w s
  exact ⟨t, ht, rest_t, ring_t.trans (iterate_rotateLeft_one _)⟩

theorem shiftLeftIn_eq_shiftConcat (a : Byte) (c : Bool) : shiftLeftIn a c = a.shiftConcat c := by
  apply BitVec.eq_of_toNat_eq
  rw [shiftLeftIn_toNat, BitVec.toNat_shiftConcat]
  have := c.toNat_lt
  omega

theorem shiftLeftIn_eq_rotateLeft : ∀ a : Byte, shiftLeftIn a (a.getLsbD 7) = a.rotateLeft 1 := by decide

/-- The data registers but A. -/
def Regs.butA (x : Regs) : Regs := x.set .a 0x00#8

/-- The data registers but D and E. -/
def Regs.butDe (x : Regs) : Regs := x.setDe 0x0000#16

theorem Regs.eq_of_butA {x y : Regs} (h : x.butA = y.butA) (ha : x.a = y.a) : x = y := by
  cases x; cases y
  simp_all [Regs.butA, Regs.set]

theorem Regs.eq_of_butDe {x y : Regs} (h : x.butDe = y.butDe) (hde : x.de = y.de) : x = y := by
  have hd : x.d = y.d := by simpa [Regs.de] using congrArg hiByte hde
  have he : x.e = y.e := by simpa [Regs.de] using congrArg loByte hde
  cases x; cases y
  simp_all [Regs.butDe, Regs.setDe]

theorem cons_inj {c d : Bool} {x y : BitVec w} (h : BitVec.cons c x = BitVec.cons d y) : x = y ∧ c = d :=
  ⟨by simpa using congrArg (BitVec.setWidth w) h, by simpa using congrArg BitVec.msb h⟩

/-- The ring that RAL turns: CY above A. -/
def State.ringOfA (s : State) : BitVec 9 := BitVec.cons s.flags.cy s.regs.a

/-- The ring that RDEL turns: CY above DE. -/
def State.ringOfDe (s : State) : BitVec 17 := BitVec.cons s.flags.cy s.regs.de

theorem rlc_turns (s : State) : ∃ t, exec .rlc s = .next t ∧ t.regs.butA = s.regs.butA ∧
    t.regs.a = s.regs.a.rotateLeft 1 := ⟨_, exec_rlc s, rfl, shiftLeftIn_eq_rotateLeft s.regs.a⟩

theorem ral_turns (s : State) : ∃ t, exec .ral s = .next t ∧ t.regs.butA = s.regs.butA ∧
    t.ringOfA = s.ringOfA.rotateLeft 1 := by
  refine ⟨_, exec_ral s, rfl, ?_⟩
  rw [State.ringOfA, State.ringOfA, ← cons_shiftConcat, ← shiftLeftIn_eq_shiftConcat]
  rfl

theorem rdel_turns (s : State) : ∃ t, exec .rdel s = .next t ∧ t.regs.butDe = s.regs.butDe ∧
    t.ringOfDe = s.ringOfDe.rotateLeft 1 := by
  refine ⟨_, exec_rdel s, rfl, ?_⟩
  rw [State.ringOfDe, State.ringOfDe, ← cons_shiftConcat, ← rotateLeftIn_eq_shiftConcat]
  exact congrArg _ (pairWritten_setPair s .de _).1

/-- Settles O23: RLC turns the ring of eight bits that A is, RAL and RDEL turn A and DE with CY above them. -/
theorem fullTurns : Obligations.FullTurns := by
  intro s
  refine ⟨?_, ?_, ?_⟩
  · obtain ⟨t, ht, rest, ring⟩ := execTimes_full_turn rlc_turns s
    exact ⟨t, ht, Regs.eq_of_butA rest ring⟩
  · obtain ⟨t, ht, rest, ring⟩ := execTimes_full_turn ral_turns s
    obtain ⟨ha, hcy⟩ := cons_inj ring
    exact ⟨t, ht, Regs.eq_of_butA rest ha, hcy⟩
  · obtain ⟨t, ht, rest, ring⟩ := execTimes_full_turn rdel_turns s
    obtain ⟨hde, hcy⟩ := cons_inj ring
    exact ⟨t, ht, Regs.eq_of_butDe rest hde, hcy⟩

end Sys2Proof.Machine
end

section
/-! PROOFS. Steps whole and cut (10_state.md R26; 20_memory.md R67, R68; 60_exceptions.md R328; 70_reset_and_hazards.md R350): what
a step fetches where nobody disturbs it, what RESET IN and HOLD leave of an instruction between two of its machine cycles, and how
it goes on. -/

namespace Sys2Proof

/-- The bytes behind the operand play no part. -/
theorem decodeWith_congr {b0 b1 b2 c1 c2 : Byte} (h : operandBytes (opcodeLength b0) b1 (ofBytes b2 b1) =
    operandBytes (opcodeLength b0) c1 (ofBytes c2 c1)) : decodeWith b0 b1 b2 = decodeWith b0 c1 c2 :=
  encode_injective (decodeWith_wellFormed ..) (decodeWith_wellFormed ..) (by rw [encode_decodeWith, encode_decodeWith, h])

end Sys2Proof

namespace Sys2Proof.Machine

variable {s t u v : State} {cond : Cond}

/-! ## Machine control (R43, R248 to R251) -/

theorem step_of_halted (hr : s.sample.env.resetIn = false) (hd : s.sample.env.hold = false)
    (hq : s.sample.releaseBus.request = none) (hh : s.ctl.halted = true) (hs : s.suspended = none) :
    step s = .next s.sample.releaseBus := by
  rcases boundary_cases s with ⟨k, -⟩ | ⟨-, k, -⟩ | ⟨-, -, ⟨p, k, -⟩ | ⟨-, ⟨q, k, -⟩ | ⟨-, -, j⟩ | ⟨-, k, -⟩⟩⟩
  · rw [hr] at k; cases k
  · rw [hd] at k; cases k
  · rw [hs] at k; cases k
  · rw [hq] at k; cases k
  · exact step_done j
  · rw [hh] at k; cases k

/-- Settles O35: each writes its flip-flops and nothing else; a halted machine waits at the boundary. -/
theorem machineControl : Obligations.MachineControl := by
  intro s
  exact ⟨⟨rfl, rfl⟩, ⟨rfl, rfl⟩, ⟨rfl, rfl⟩, ⟨rfl, exec_nop s⟩, step_of_halted⟩

/-! ## The whole fetch (R26, R68) -/

/-- The state in which the instruction at pc begins, fetched where nobody disturbs it. -/
def State.afterFetch (s : State) : State :=
  (s.setPc (s.pc + BitVec.ofNat 16 (opcodeLength (s.peek s.pc)))).setBus (s.fetchCycles ++ s.bus)

theorem fetchInstr_of_length_one (h : s.Quiet) (hp : s.Populated s.pc) (hl : opcodeLength (s.peek s.pc) = 1) :
    s.fetchInstr = (decodeWith (s.peek s.pc) 0x00#8 0x00#8, s.afterFetch) := by
  simp only [State.fetchInstr, fetchByte_quiet _ h hp, hl, State.afterFetch, State.fetchCycles]
  rfl

theorem fetchInstr_of_length_two (h : s.Quiet) (hp : s.Populated s.pc) (hp' : s.Populated (s.pc + 1))
    (hl : opcodeLength (s.peek s.pc) = 2) :
    s.fetchInstr = (decodeWith (s.peek s.pc) (s.peek (s.pc + 1)) 0x00#8, s.afterFetch) := by
  have second := fetchByte_quiet (s := (s.setBus (.opcodeFetch s.pc (s.peek s.pc) :: s.bus)).setPc (s.pc + 1))
    .memoryRead h hp'
  simp only [State.fetchInstr, fetchByte_quiet _ h hp, hl, State.afterFetch, State.fetchCycles, second]
  rw [show BitVec.ofNat 16 2 = 1 + 1 from rfl, ← BitVec.add_assoc]
  rfl

theorem fetchThird_atThirdByte_always {opcode low : Byte} (hc : thirdByteCond opcode = none) (h : s.Quiet)
    (hp : s.Populated (s.pc + 2)) : (s.atThirdByte opcode low).fetchThird opcode =
      (s.peek (s.pc + 2), s.afterThreeRead opcode low (s.peek (s.pc + 2))) := by
  rw [State.fetchThird, hc, State.afterThreeRead, State.afterTwoRead, ← word_add_two_add_one]
  exact fetchByte_quiet (s := s.atThirdByte opcode low) _ h hp

/-- Read or stepped over, the third byte is the byte that stands there. -/
theorem fetchThird_whole (h : s.Quiet) (hl : opcodeLength (s.peek s.pc) = 3)
    (hp : 3 ≤ s.fetchCycles.length → s.Populated (s.pc + 2)) :
    (s.atThirdByte (s.peek s.pc) (s.peek (s.pc + 1))).fetchThird (s.peek s.pc) = (s.peek (s.pc + 2), s.afterFetch) := by
  simp only [State.afterFetch, State.fetchCycles, hl] at hp ⊢
  cases hc : thirdByteCond (s.peek s.pc) with
  | none =>
    simp only [hc] at hp ⊢
    exact fetchThird_atThirdByte_always hc h (hp (Nat.le_refl 3))
  | some cond =>
    cases ht : cond.holds s.flags with
    | true =>
      simp only [hc, ht, if_true] at hp ⊢
      exact fetchThird_atThirdByte_taken hc ht h (hp (Nat.le_refl 3))
    | false =>
      simp only [ht, Bool.false_eq_true, if_false]
      exact fetchThird_atThirdByte_untaken hc ht

theorem two_le_length_fetchCycles (hl : opcodeLength (s.peek s.pc) = 3) : 2 ≤ s.fetchCycles.length := by
  simp only [State.fetchCycles, hl]
  split
  · exact Nat.le_succ 2
  · split
    · exact Nat.le_succ 2
    · exact Nat.le_refl 2

theorem fetchInstr_whole (h : s.Quiet)
    (hp : ∀ k : Nat, k < s.fetchCycles.length → s.Populated (s.pc + BitVec.ofNat 16 k)) :
    s.fetchInstr = (decodeWith (s.peek s.pc) (s.peek (s.pc + 1)) (s.peek (s.pc + 2)), s.afterFetch) := by
  rcases opcodeLength_range (s.peek s.pc) with hl | hl | hl
  · have one : s.fetchCycles.length = 1 := by simp only [State.fetchCycles, hl, List.length_singleton]
    rw [fetchInstr_of_length_one h (by simpa using hp 0 (by omega)) hl]
    exact congrArg (·, s.afterFetch) (decodeWith_congr (by rw [hl]; rfl))
  · have two : s.fetchCycles.length = 2 := by simp only [State.fetchCycles, hl, List.length_cons, List.length_nil]
    rw [fetchInstr_of_length_two h (by simpa using hp 0 (by omega)) (hp 1 (by omega)) hl]
    exact congrArg (·, s.afterFetch) (decodeWith_congr (by rw [hl]; rfl))
  · have two := two_le_length_fetchCycles hl
    have first : FirstTwoBytes s (s.peek s.pc) (s.peek (s.pc + 1)) :=
      ⟨h, by simpa using hp 0 (by omega), hp 1 (by omega), rfl, rfl⟩
    rw [fetchInstr_of_length_three first hl, fetchThird_whole h hl fun three => hp 2 three]

/-- Settles O42: the bytes fetched are the bytes at pc, and the decoder reads the same instruction from both. -/
theorem stepRunsDecodedInstruction : Obligations.StepRunsDecodedInstruction := by
  intro s i rest u he hq hp hd _
  rw [decode_three] at hd
  cases hd
  rw [length_encode_decodeWith]
  obtain ⟨t, ht⟩ := exec_next (decodeWith (u.peek u.pc) (u.peek (u.pc + 1)) (u.peek (u.pc + 2))) u.afterFetch
  have quiet : u.afterFetch.Quiet := hq
  exact (step_of_fetchInstr he (fetchInstr_whole hq hp) ht ((exec_progress _ ht).quiet_all quiet)).trans ht.symm

/-! ## One machine cycle, disturbed or not (R328, R350) -/

/-- No cycle made before a hold is left, so that the next is made now. -/
def State.Fresh (s : State) : Prop := ∀ now : Byte × State, s.madeOr now = now

theorem fresh_of_none (h : s.suspended = none) : s.Fresh := fun now => madeOr_fresh now h

theorem fresh_of_made {a : Activity} (h : s.suspended = some { activity := a, made := [] }) : s.Fresh := fun now => by
  simp only [State.madeOr, h]

/-- The state after a machine cycle that nothing comes before, with the events to come. -/
def State.afterCycle (s : State) (es : List CycleEvent) (c : BusCycle) : State :=
  (s.setEnv { s.env with cycles := es }).setBus (c :: s.bus)

theorem readCycle_undisturbed {kind : Word → Byte → BusCycle} {a : Word} {es : List CycleEvent} (hw : s.abandoned = false)
    (hf : s.Fresh) (hc : s.env.cycles = .undisturbed :: es) (hp : s.Populated a) :
    s.readCycle kind a = (s.peek a, s.afterCycle es (kind a (s.peek a))) := by
  simp only [State.readCycle, hf _, beforeCycle_undisturbed hw hc,
    memorySystemRead_populated (s := s.setEnv { s.env with cycles := es }) hp, State.record, State.setEnv_abandoned, hw]
  rfl

theorem memWrite_fresh {a : Word} (x : Byte) (hf : s.Fresh) (hb : s.beforeCycle = t) (ht : t.abandoned = false)
    (hw : t.Writable a) :
    s.memWrite a x = (t.setMem (t.mem.write a.toNat x)).setBus (.memoryWrite a x :: t.bus) := by
  simp only [State.memWrite, hf _, hb, ht, Bool.false_eq_true, if_false, memorySystemWrite_ram x hw]
  exact record_whole (s := t.setMem _) _ ht

/-- A write that HOLD or RESET IN comes before is not made. -/
theorem memWrite_cut {a : Word} (x : Byte) (hf : s.Fresh) (hb : s.beforeCycle = t) (ht : t.abandoned = true) :
    s.memWrite a x = t := by
  simp only [State.memWrite, hf _, hb, ht, if_true]

/-- A cycle made before a hold gives the byte it moved then. -/
theorem readCycle_made {kind : Word → Byte → BusCycle} {a : Word} {act : Activity} {c : BusCycle} {cs : List BusCycle}
    (h : s.suspended = some { activity := act, made := c :: cs }) :
    s.readCycle kind a = (c.data, s.setSuspended (some { activity := act, made := cs })) := madeOr_made _ h

/-! ## RESET IN between the two writes of SHLD (R350) -/

/-- The state in which RESET IN cuts SHLD: its first byte is written, its second is not. -/
def State.cutStore (s : State) (a : Word) (x : Byte) : State :=
  (((s.setMem (s.mem.write a.toNat x)).setBus (.memoryWrite a x :: s.bus)).setEnv
    { s.env with cycles := [], resetIn := true }).setAbandoned true

theorem storeHl_cut {a : Word} (hw : s.abandoned = false) (hs : s.suspended = none)
    (hc : s.env.cycles = [.undisturbed, .resetIn]) (ha : s.Writable a) : s.storeHl a = s.cutStore a s.regs.l := by
  have first := memWrite_fresh s.regs.l (fresh_of_none hs) (beforeCycle_undisturbed hw hc) hw ha
  rw [State.storeHl, first]
  exact memWrite_cut s.regs.h (fresh_of_none hs) (beforeCycle_resetIn hw rfl) rfl

/-- Settles O58: the first write is made, RESET IN comes before the second, and reset touches no memory. -/
theorem resetMidStore : Obligations.ResetMidStore := by
  intro s v w hw hs hc ha
  refine ⟨_, (s.cutStore w s.regs.l).resetIn, exec_shld w s, ?_, rfl, rfl, rfl, ?_, fun a hne => ?_⟩
  · rw [storeHl_cut hw hs hc ha]
    rfl
  · exact State.peek_setMem_write_same s w s.regs.l
  · exact State.peek_setMem_write_other s s.regs.l hne

/-! ## HOLD between the read and the write of INR M (R67, R328) -/

/-- What INR M makes of the byte `x`. -/
def incremented (x : Byte) : Alu := add8 x 0x01#8 false

theorem incremented_r (x : Byte) : (incremented x).r = x + 1 := by
  apply BitVec.eq_of_toNat_eq
  simp [incremented, add8, BitVec.toNat_add]

/-- INR M, its fetch and its read given: what is left is its write. -/
theorem perform_inrM {x : Byte} (hf : s.fetchByte .opcodeFetch = (0x34#8, t)) (hr : t.memRead t.hl = (x, u)) :
    s.perform .instruction =
      .next ((u.memWrite u.hl (incremented x).r).setFlags ((incremented x).flagsKeepingCarry u.flags)) := by
  have fetched : s.fetchInstr = (.inrM, t) := by
    simp only [State.fetchInstr, hf]
    rfl
  rw [State.perform, fetched, exec_inrM, State.stepM, State.withM, hr]
  rfl

/-- The state in which INR M, fetched at pc and with the byte read at HL, waits while HOLD is high and another master has
written `x` at `a`. -/
def State.heldInrM (s : State) (a : Word) (x : Byte) : State :=
  (((((s.setCtl { s.ctl with hlda := true }).setMem (s.mem.write a.toNat x)).setEnv
    { s.env with cycles := [], hold := true }).setBus
      ([.memoryRead s.hl (s.peek s.hl), .opcodeFetch s.pc 0x34#8] ++ s.bus)).setAbandoned false).setSuspended
        (some { activity := .instruction, made := [.opcodeFetch s.pc 0x34#8, .memoryRead s.hl (s.peek s.hl)] })

/-- The state in which INR M, fetched and with the byte read, is about to write, with the events to come. -/
def State.beforeWriteOfInrM (s : State) (es : List CycleEvent) : State :=
  ((s.setBus ([.memoryRead s.hl (s.peek s.hl), .opcodeFetch s.pc 0x34#8] ++ s.bus)).setPc (s.pc + 1)).setEnv
    { s.env with cycles := es }

/-- The state in which HOLD cuts it, and another master has written `x` at `a`. -/
def State.cutInrM (s : State) (a : Word) (x : Byte) : State :=
  (((s.beforeWriteOfInrM []).setEnv { s.env with cycles := [], hold := true }).setMem (s.mem.write a.toNat x)).setAbandoned
    true

theorem masterWrites_singleton {a : Word} (x : Byte) (h : s.Writable a) :
    s.masterWrites [(a, x)] = s.setMem (s.mem.write a.toNat x) := memorySystemWrite_ram x h

theorem memWrite_held {a b : Word} {x : Byte} (y : Byte) (hw : s.abandoned = false) (hs : s.suspended = none)
    (ha : s.Writable a) : (s.beforeWriteOfInrM [.hold [(a, x)]]).memWrite b y = s.cutInrM a x := by
  rw [memWrite_cut (s := s.beforeWriteOfInrM [.hold [(a, x)]]) y (fresh_of_none hs) (beforeCycle_hold hw rfl) rfl]
  exact congrArg (State.setAbandoned · true) (masterWrites_singleton (s := (s.beforeWriteOfInrM []).setEnv _) x ha)

/-- An INR M is about to be fetched in `s`, and HOLD will come before its third cycle, with another master writing `x` at `a`. -/
structure InrMToBeHeld (s : State) (a : Word) (x : Byte) : Prop where
  whole : s.abandoned = false
  begins : s.suspended = none
  cycles_eq : s.env.cycles = [.undisturbed, .undisturbed, .hold [(a, x)]]
  populated_pc : s.Populated s.pc
  opcode_eq : s.peek s.pc = 0x34#8
  populated_hl : s.Populated s.hl
  writable : s.Writable a

theorem perform_inrM_cut {a : Word} {x : Byte} (h : InrMToBeHeld s a x) : s.perform .instruction =
    .next ((s.cutInrM a x).setFlags ((incremented (s.peek s.hl)).flagsKeepingCarry s.flags)) := by
  obtain ⟨hw, hs, hc, hp, hop, hhl, ha⟩ := h
  have fetched : s.fetchByte .opcodeFetch = (0x34#8,
      (s.afterCycle [.undisturbed, .hold [(a, x)]] (.opcodeFetch s.pc 0x34#8)).setPc (s.pc + 1)) := by
    rw [State.fetchByte, readCycle_undisturbed hw (fresh_of_none hs) hc hp, hop]
  generalize ht : (s.afterCycle _ _).setPc _ = t at fetched
  have read : t.memRead t.hl = (s.peek s.hl, s.beforeWriteOfInrM [.hold [(a, x)]]) := by
    subst ht
    exact readCycle_undisturbed hw (fresh_of_none hs) rfl hhl
  rw [perform_inrM fetched read, memWrite_held _ hw hs ha]
  rfl

theorem step_inrM_held {a : Word} {x : Byte} (hb : s.boundary = .run .instruction u) (hr : u.env.resetIn = false)
    (h : InrMToBeHeld u a x) : step s = .next (u.heldInrM a x) := by
  have cut := perform_inrM_cut h
  generalize hv : (u.cutInrM a x).setFlags _ = v at cut
  have waits : u.suspend .instruction v = u.heldInrM a x := by
    subst hv
    rw [suspend_first (cs := [.memoryRead u.hl (u.peek u.hl), .opcodeFetch u.pc 0x34#8]) h.begins rfl]
    rfl
  have abandoned : v.abandoned = true := by subst hv; rfl
  have running : v.env.resetIn = false := by subst hv; exact hr
  rw [step_run hb, cut, ← waits]
  simp only [settle, abandoned, running, if_true, Bool.false_eq_true, if_false]

/-! ## The end of the hold -/

theorem boundary_goes_on {p : Suspended} (hr : s.sample.env.resetIn = false) (hd : s.sample.env.hold = false)
    (hs : s.suspended = some p) : s.boundary = .run p.activity s.sample.releaseBus := by
  rcases boundary_cases s with ⟨k, -⟩ | ⟨-, k, -⟩ | ⟨-, -, ⟨q, k, j⟩ | ⟨k, -⟩⟩
  · rw [hr] at k; cases k
  · rw [hd] at k; cases k
  · cases hs.symm.trans k
    exact j
  · rw [hs] at k; cases k

theorem beforeCycle_of_nil (h : s.env.cycles = []) : s.beforeCycle = s := by
  simp only [State.beforeCycle, h, ite_self]

/-- The instruction waits, with the machine cycles `cs` still to be answered from the record. -/
def State.setMade (s : State) (cs : List BusCycle) : State :=
  s.setSuspended (some { activity := .instruction, made := cs })

/-- The state after INR M, whose write alone was left to make, with `x` the byte read before the hold. -/
def State.afterInrM (s : State) (x : Byte) : State :=
  ((((s.setPc (s.pc + 1)).setMem (s.mem.write s.hl.toNat (incremented x).r)).setBus
    (.memoryWrite s.hl (incremented x).r :: s.bus)).setFlags
      ((incremented x).flagsKeepingCarry s.flags)).setSuspended none

/-- Run again from its beginning, the instruction answers the two cycles made from the record and makes the third. -/
theorem step_inrM_resumed {p c : Word} {x : Byte} (hr : s.sample.env.resetIn = false) (hd : s.sample.env.hold = false)
    (hc : s.sample.env.cycles = []) (hw : s.abandoned = false) (hhl : s.sample.releaseBus.Writable s.sample.releaseBus.hl)
    (hs : s.suspended = some { activity := .instruction, made := [.opcodeFetch p 0x34#8, .memoryRead c x] }) :
    step s = .next (s.sample.releaseBus.afterInrM x) := by
  have hb := boundary_goes_on hr hd hs
  have hs' : s.sample.releaseBus.suspended = _ := s.sample_suspended.trans hs
  have hw' : s.sample.releaseBus.abandoned = false := s.sample_abandoned.trans hw
  have hc' : s.sample.releaseBus.env.cycles = [] := hc
  generalize s.sample.releaseBus = u at hb hs' hw' hc' hhl ⊢
  have fetched : u.fetchByte .opcodeFetch = (0x34#8, (u.setMade [.memoryRead c x]).setPc (u.pc + 1)) := by
    rw [State.fetchByte, readCycle_made hs']
    rfl
  have read : ((u.setMade [.memoryRead c x]).setPc (u.pc + 1)).memRead u.hl = (x, (u.setMade []).setPc (u.pc + 1)) :=
    readCycle_made (s := (u.setMade [.memoryRead c x]).setPc (u.pc + 1)) rfl
  have write := memWrite_fresh (s := (u.setMade []).setPc (u.pc + 1)) (a := u.hl) (incremented x).r (fresh_of_made rfl)
    (beforeCycle_of_nil hc') hw' hhl
  have performed := perform_inrM fetched read
  rw [show ((u.setMade []).setPc (u.pc + 1)).hl = u.hl from rfl, write] at performed
  exact (step_over hb performed hw' :)

/-- Settles O60: the step that HOLD cuts leaves the instruction waiting with its two cycles made; RESET IN gives it up, and the
step after the hold makes its third cycle. -/
theorem holdBetweenReadAndWrite : Obligations.HoldBetweenReadAndWrite := by
  intro s a x u hl he hw hc hp hop hhl ha
  have hb : s.boundary = .run .instruction u := boundary_executes he
  have hr : u.env.resetIn = false := he.1
  have hs : u.suspended = none := s.sample_suspended.trans he.2.2.2.2
  clear_value u
  have held : step s = .next (u.heldInrM a x) := step_inrM_held hb hr ⟨hw, hs, hc, hp, hop, .inl hhl, ha⟩
  refine ⟨_, held, rfl, State.peek_setMem_write_same u a x, fun b hb => State.peek_setMem_write_other u x hb, rfl, ?_⟩
  generalize ht : u.heldInrM a x = t
  have regs_eq : t.sample.releaseBus.regs = u.regs := t.sample_regs.trans (by rw [← ht]; rfl)
  have hl_eq : t.sample.releaseBus.hl = hl := congrArg Regs.hl regs_eq
  have pc_eq : t.sample.releaseBus.pc = u.pc := t.sample_pc.trans (by rw [← ht]; rfl)
  have kind_eq (b : Word) : t.sample.releaseBus.kindAt b = u.kindAt b := (t.sample_kindAt b).trans (by rw [← ht]; rfl)
  refine ⟨fun hr' => ⟨_, step_of_resetIn hr', rfl, rfl, t.sample_mem, t.sample_bus⟩, fun hr' hd' hc' => ?_⟩
  have resumed : step t = .next (t.sample.releaseBus.afterInrM (u.peek u.hl)) :=
    step_inrM_resumed hr' hd' hc' (by rw [← ht]; rfl) (by rw [hl_eq, State.Writable, kind_eq]; exact hhl)
      (by rw [← ht]; rfl)
  have peek_hl : (t.sample.releaseBus.afterInrM (u.peek u.hl)).peek hl = u.peek hl + 1 := by
    have stored : (t.sample.releaseBus.afterInrM (u.peek u.hl)).peek t.sample.releaseBus.hl =
        (incremented (u.peek u.hl)).r := State.peek_setMem_write_same ..
    rw [hl_eq, incremented_r] at stored
    exact stored
  refine ⟨_, resumed, rfl, rfl, congrArg (· + 1) pc_eq, peek_hl, fun b hb => ?_, ?_, regs_eq, ?_⟩
  · exact (State.peek_setMem_write_other _ _ (hl_eq ▸ hb)).trans (t.sample_peek b)
  · rw [peek_hl, ← incremented_r]
    rfl
  · have added : (t.sample.releaseBus.afterInrM (u.peek u.hl)).bus =
        .memoryWrite t.sample.releaseBus.hl (incremented (u.peek u.hl)).r :: t.sample.releaseBus.bus := rfl
    rw [hl_eq, incremented_r] at added
    exact added.trans (congrArg _ t.sample_bus)

end Sys2Proof.Machine
end
